-- ==== Sys2Proof/Word.lean ====
section
/-! DEFINITION. The value types of the hardware (00_scope.md R5, R7; 10_state.md R21 to R33). -/

namespace Sys2Proof

/-- An 8-bit value: a general register, a timer, a memory cell (R21, R31, R34). -/
abbrev Byte := BitVec 8

/-- A 16-bit value: an instruction word, the program counter, the index register, a stack slot
(R24, R27, R28, R90). -/
abbrev Word := BitVec 16

/-- The number of a general register, V0 to VF (R21). -/
abbrev Reg := Fin 16

/-- A logical key value, 0x0 to 0xF (R12, R227). -/
abbrev Key := Fin 16

/-- The 64 x 32 grid of one-bit pixels: 32 rows of 64 columns, `true` is on (R33). -/
abbrev Framebuffer := Vector (Vector Bool 64) 32

end Sys2Proof
end

