-- ==== Sys2Proof/Syntax.lean ====
section
/-! DEFINITION. The instructions: one constructor per row of spec/opcode_table.json, in the order of
that table (30_encoding.md R91, R94 to R98, R103). Operands carry the names of R8. -/

namespace Sys2Proof

/-- One instruction with its operands assembled as R92 says: `x` and `y` are register numbers, `kk` a
byte, `nnn` an address and `n` a row count.  The bounds `nnn < 0x1000` and `n < 16` are checked by
`Instr.wellFormed`. -/
inductive Instr where
  | clearScreen
  | ret
  | jump (nnn : Nat)
  | call (nnn : Nat)
  | skipEqImm (x : Reg) (kk : Byte)
  | skipNeImm (x : Reg) (kk : Byte)
  | skipEqReg (x y : Reg)
  | setImm (x : Reg) (kk : Byte)
  | addImm (x : Reg) (kk : Byte)
  | move (x y : Reg)
  | or (x y : Reg)
  | and (x y : Reg)
  | xor (x y : Reg)
  | addReg (x y : Reg)
  | sub (x y : Reg)
  | shr (x : Reg)
  | subn (x y : Reg)
  | shl (x : Reg)
  | skipNeReg (x y : Reg)
  | setIndex (nnn : Nat)
  | jumpOffset (nnn : Nat)
  | rand (x : Reg) (kk : Byte)
  | draw (x y : Reg) (n : Nat)
  | skipKeyPressed (x : Reg)
  | skipKeyNotPressed (x : Reg)
  | getDelay (x : Reg)
  | waitKey (x : Reg)
  | setDelay (x : Reg)
  | setSound (x : Reg)
  | addIndex (x : Reg)
  | spriteAddr (x : Reg)
  | bcd (x : Reg)
  | storeRegs (x : Reg)
  | loadRegs (x : Reg)
  deriving DecidableEq, Repr

end Sys2Proof
end

