-- ==== Sys2Proof/WellFormed.lean ====
section
/-! DEFINITION. Which instruction terms are instructions of the hardware: an address operand is 12
bits and a row count 4 bits (30_encoding.md R91, R92).  Register numbers and byte immediates are
bounded by their types. -/

namespace Sys2Proof

/-- `nnn = op[11:0]` is a 12-bit unsigned address (R92). -/
def addressFits (nnn : Nat) : Bool := decide (nnn < 0x1000)

/-- `n = op[3:0]` is a 4-bit unsigned row count, 0..15 (R92). -/
def rowCountFits (n : Nat) : Bool := decide (n < 16)

/-- The operands fit the fields of the instruction's format (R91, R92). -/
def Instr.wellFormed : Instr → Bool
  | .clearScreen => true
  | .ret => true
  | .jump nnn => addressFits nnn
  | .call nnn => addressFits nnn
  | .skipEqImm _ _ => true
  | .skipNeImm _ _ => true
  | .skipEqReg _ _ => true
  | .setImm _ _ => true
  | .addImm _ _ => true
  | .move _ _ => true
  | .or _ _ => true
  | .and _ _ => true
  | .xor _ _ => true
  | .addReg _ _ => true
  | .sub _ _ => true
  | .shr _ => true
  | .subn _ _ => true
  | .shl _ => true
  | .skipNeReg _ _ => true
  | .setIndex nnn => addressFits nnn
  | .jumpOffset nnn => addressFits nnn
  | .rand _ _ => true
  | .draw _ _ n => rowCountFits n
  | .skipKeyPressed _ => true
  | .skipKeyNotPressed _ => true
  | .getDelay _ => true
  | .waitKey _ => true
  | .setDelay _ => true
  | .setSound _ => true
  | .addIndex _ => true
  | .spriteAddr _ => true
  | .bcd _ => true
  | .storeRegs _ => true
  | .loadRegs _ => true

end Sys2Proof
end

