-- ==== Sys2Proof/Decode.lean ====
section
/-! DEFINITION. The opcode decoder, total on any bytes, and the encoder written from the same tables
(30_encoding.md R90 to R102; 20_memory.md R61). -/

namespace Sys2Proof

/-- Why bytes are no instruction: fewer than the two bytes every instruction has (R90), or a word that
matches no key (R93, R100). -/
inductive DecodeError where
  | truncated
  | unknownOpcode (op : Word)
  deriving DecidableEq, Repr

/-- `v[hi:lo]`, the unsigned value of bits `hi` down to `lo`, inclusive at both ends (R7). -/
def bits {w : Nat} (v : BitVec w) (hi lo : Nat) : Nat := v.toNat / 2 ^ lo % 2 ^ (hi - lo + 1)

/-- The group nibble `op[15:12]` (R8). -/
def opGroup (op : Word) : Nat := bits op 15 12

/-- `x = op[11:8]` (R8, R92). -/
def opX (op : Word) : Reg := Fin.ofNat 16 (bits op 11 8)

/-- `y = op[7:4]` (R8, R92). -/
def opY (op : Word) : Reg := Fin.ofNat 16 (bits op 7 4)

/-- `n = op[3:0]`, the last nibble (R8, R92). -/
def opN (op : Word) : Nat := bits op 3 0

/-- `kk = op[7:0]` (R8, R92). -/
def opKK (op : Word) : Byte := BitVec.ofNat 8 (bits op 7 0)

/-- `nnn = op[11:0]` (R8, R92). -/
def opNNN (op : Word) : Nat := bits op 11 0

/-- The fetched word: the first byte is the more significant one, `op[15:8] = MEM[pc]` (R61). -/
def wordOfBytes (b1 b0 : Byte) : Word := b1 ++ b0

/-- Group 0 is keyed by the last nibble; bits 11:4 are ignored (R93, R94, R99). -/
def decodeGroup0 (op : Word) : Except DecodeError Instr :=
  match opN op with
  | 0x0 => .ok .clearScreen
  | 0xE => .ok .ret
  | _ => .error (.unknownOpcode op)

/-- Group 8 is keyed by the last nibble (R93, R96); `shr` and `shl` ignore the `y` field (R99). -/
def decodeGroup8 (op : Word) : Except DecodeError Instr :=
  match opN op with
  | 0x0 => .ok (.move (opX op) (opY op))
  | 0x1 => .ok (.or (opX op) (opY op))
  | 0x2 => .ok (.and (opX op) (opY op))
  | 0x3 => .ok (.xor (opX op) (opY op))
  | 0x4 => .ok (.addReg (opX op) (opY op))
  | 0x5 => .ok (.sub (opX op) (opY op))
  | 0x6 => .ok (.shr (opX op))
  | 0x7 => .ok (.subn (opX op) (opY op))
  | 0xE => .ok (.shl (opX op))
  | _ => .error (.unknownOpcode op)

/-- Group E is keyed by the last nibble; bits 7:4 are ignored (R93, R97, R99). -/
def decodeGroupE (op : Word) : Except DecodeError Instr :=
  match opN op with
  | 0x1 => .ok (.skipKeyNotPressed (opX op))
  | 0xE => .ok (.skipKeyPressed (opX op))
  | _ => .error (.unknownOpcode op)

/-- Group F is keyed by the third and the last nibble, that is by the low byte (R93, R98). -/
def decodeGroupF (op : Word) : Except DecodeError Instr :=
  match bits op 7 0 with
  | 0x07 => .ok (.getDelay (opX op))
  | 0x0A => .ok (.waitKey (opX op))
  | 0x15 => .ok (.setDelay (opX op))
  | 0x18 => .ok (.setSound (opX op))
  | 0x1E => .ok (.addIndex (opX op))
  | 0x29 => .ok (.spriteAddr (opX op))
  | 0x33 => .ok (.bcd (opX op))
  | 0x55 => .ok (.storeRegs (opX op))
  | 0x65 => .ok (.loadRegs (opX op))
  | _ => .error (.unknownOpcode op)

/-- The decoder of one word: the group nibble selects the operation or the group's own key (R93); the
single-operation groups are those of R95, where groups 5 and 9 ignore the last nibble (R99). -/
def decodeWord (op : Word) : Except DecodeError Instr :=
  match opGroup op with
  | 0x0 => decodeGroup0 op
  | 0x1 => .ok (.jump (opNNN op))
  | 0x2 => .ok (.call (opNNN op))
  | 0x3 => .ok (.skipEqImm (opX op) (opKK op))
  | 0x4 => .ok (.skipNeImm (opX op) (opKK op))
  | 0x5 => .ok (.skipEqReg (opX op) (opY op))
  | 0x6 => .ok (.setImm (opX op) (opKK op))
  | 0x7 => .ok (.addImm (opX op) (opKK op))
  | 0x8 => decodeGroup8 op
  | 0x9 => .ok (.skipNeReg (opX op) (opY op))
  | 0xA => .ok (.setIndex (opNNN op))
  | 0xB => .ok (.jumpOffset (opNNN op))
  | 0xC => .ok (.rand (opX op) (opKK op))
  | 0xD => .ok (.draw (opX op) (opY op) (opN op))
  | 0xE => decodeGroupE op
  | 0xF => decodeGroupF op
  | _ => .error (.unknownOpcode op)

/-- The decoder on bytes: two bytes make one instruction, most significant first (R61, R90); the rest
of the bytes is handed back. -/
def decode : List Byte → Except DecodeError (Instr × List Byte)
  | b1 :: b0 :: rest =>
    match decodeWord (wordOfBytes b1 b0) with
    | .ok i => .ok (i, rest)
    | .error e => .error e
  | _ => .error .truncated

/-- Format `A`: group nibble and 12-bit address (R91). -/
def formatA (g nnn : Nat) : Word := BitVec.ofNat 16 (g * 0x1000 + nnn)

/-- Format `XK`: group nibble, register, byte (R91). -/
def formatXK (g : Nat) (x : Reg) (kk : Byte) : Word :=
  BitVec.ofNat 16 (g * 0x1000 + x.val * 0x100 + kk.toNat)

/-- Formats `XY` and `XYN`: group nibble, two registers, last nibble (R91). -/
def formatXYN (g : Nat) (x y : Reg) (n : Nat) : Word :=
  BitVec.ofNat 16 (g * 0x1000 + x.val * 0x100 + y.val * 0x10 + n)

/-- Format `X`: group nibble, register, low byte (R91). -/
def formatX (g : Nat) (x : Reg) (low : Nat) : Word :=
  BitVec.ofNat 16 (g * 0x1000 + x.val * 0x100 + low)

/-- The encoder: the canonical spelling of each instruction (R102). -/
def encode : Instr → Word
  | .clearScreen => 0x00E0
  | .ret => 0x00EE
  | .jump nnn => formatA 0x1 nnn
  | .call nnn => formatA 0x2 nnn
  | .skipEqImm x kk => formatXK 0x3 x kk
  | .skipNeImm x kk => formatXK 0x4 x kk
  | .skipEqReg x y => formatXYN 0x5 x y 0x0
  | .setImm x kk => formatXK 0x6 x kk
  | .addImm x kk => formatXK 0x7 x kk
  | .move x y => formatXYN 0x8 x y 0x0
  | .or x y => formatXYN 0x8 x y 0x1
  | .and x y => formatXYN 0x8 x y 0x2
  | .xor x y => formatXYN 0x8 x y 0x3
  | .addReg x y => formatXYN 0x8 x y 0x4
  | .sub x y => formatXYN 0x8 x y 0x5
  | .shr x => formatXYN 0x8 x 0 0x6
  | .subn x y => formatXYN 0x8 x y 0x7
  | .shl x => formatXYN 0x8 x 0 0xE
  | .skipNeReg x y => formatXYN 0x9 x y 0x0
  | .setIndex nnn => formatA 0xA nnn
  | .jumpOffset nnn => formatA 0xB nnn
  | .rand x kk => formatXK 0xC x kk
  | .draw x y n => formatXYN 0xD x y n
  | .skipKeyPressed x => formatX 0xE x 0x9E
  | .skipKeyNotPressed x => formatX 0xE x 0xA1
  | .getDelay x => formatX 0xF x 0x07
  | .waitKey x => formatX 0xF x 0x0A
  | .setDelay x => formatX 0xF x 0x15
  | .setSound x => formatX 0xF x 0x18
  | .addIndex x => formatX 0xF x 0x1E
  | .spriteAddr x => formatX 0xF x 0x29
  | .bcd x => formatX 0xF x 0x33
  | .storeRegs x => formatX 0xF x 0x55
  | .loadRegs x => formatX 0xF x 0x65

/-- A row of the opcode map in its mask form: a word `op` selects the row iff `op & mask = pattern`
(R93). -/
structure OpcodeRow where
  mask    : Word
  pattern : Word
  deriving DecidableEq, Repr

/-- The word `op` selects the row (R93). -/
def OpcodeRow.selects (r : OpcodeRow) (op : Word) : Prop := op &&& r.mask = r.pattern

/-- The row of an instruction in the opcode map (R94 to R98). -/
def Instr.row : Instr → OpcodeRow
  | .clearScreen => ⟨0xF00F, 0x0000⟩
  | .ret => ⟨0xF00F, 0x000E⟩
  | .jump _ => ⟨0xF000, 0x1000⟩
  | .call _ => ⟨0xF000, 0x2000⟩
  | .skipEqImm _ _ => ⟨0xF000, 0x3000⟩
  | .skipNeImm _ _ => ⟨0xF000, 0x4000⟩
  | .skipEqReg _ _ => ⟨0xF000, 0x5000⟩
  | .setImm _ _ => ⟨0xF000, 0x6000⟩
  | .addImm _ _ => ⟨0xF000, 0x7000⟩
  | .move _ _ => ⟨0xF00F, 0x8000⟩
  | .or _ _ => ⟨0xF00F, 0x8001⟩
  | .and _ _ => ⟨0xF00F, 0x8002⟩
  | .xor _ _ => ⟨0xF00F, 0x8003⟩
  | .addReg _ _ => ⟨0xF00F, 0x8004⟩
  | .sub _ _ => ⟨0xF00F, 0x8005⟩
  | .shr _ => ⟨0xF00F, 0x8006⟩
  | .subn _ _ => ⟨0xF00F, 0x8007⟩
  | .shl _ => ⟨0xF00F, 0x800E⟩
  | .skipNeReg _ _ => ⟨0xF000, 0x9000⟩
  | .setIndex _ => ⟨0xF000, 0xA000⟩
  | .jumpOffset _ => ⟨0xF000, 0xB000⟩
  | .rand _ _ => ⟨0xF000, 0xC000⟩
  | .draw _ _ _ => ⟨0xF000, 0xD000⟩
  | .skipKeyPressed _ => ⟨0xF00F, 0xE00E⟩
  | .skipKeyNotPressed _ => ⟨0xF00F, 0xE001⟩
  | .getDelay _ => ⟨0xF0FF, 0xF007⟩
  | .waitKey _ => ⟨0xF0FF, 0xF00A⟩
  | .setDelay _ => ⟨0xF0FF, 0xF015⟩
  | .setSound _ => ⟨0xF0FF, 0xF018⟩
  | .addIndex _ => ⟨0xF0FF, 0xF01E⟩
  | .spriteAddr _ => ⟨0xF0FF, 0xF029⟩
  | .bcd _ => ⟨0xF0FF, 0xF033⟩
  | .storeRegs _ => ⟨0xF0FF, 0xF055⟩
  | .loadRegs _ => ⟨0xF0FF, 0xF065⟩

/-- The opcode map: the 34 rows in the order of the operation table (R94 to R98). -/
def opcodeRows : List OpcodeRow :=
  [⟨0xF00F, 0x0000⟩, ⟨0xF00F, 0x000E⟩, ⟨0xF000, 0x1000⟩, ⟨0xF000, 0x2000⟩, ⟨0xF000, 0x3000⟩,
   ⟨0xF000, 0x4000⟩, ⟨0xF000, 0x5000⟩, ⟨0xF000, 0x6000⟩, ⟨0xF000, 0x7000⟩, ⟨0xF00F, 0x8000⟩,
   ⟨0xF00F, 0x8001⟩, ⟨0xF00F, 0x8002⟩, ⟨0xF00F, 0x8003⟩, ⟨0xF00F, 0x8004⟩, ⟨0xF00F, 0x8005⟩,
   ⟨0xF00F, 0x8006⟩, ⟨0xF00F, 0x8007⟩, ⟨0xF00F, 0x800E⟩, ⟨0xF000, 0x9000⟩, ⟨0xF000, 0xA000⟩,
   ⟨0xF000, 0xB000⟩, ⟨0xF000, 0xC000⟩, ⟨0xF000, 0xD000⟩, ⟨0xF00F, 0xE00E⟩, ⟨0xF00F, 0xE001⟩,
   ⟨0xF0FF, 0xF007⟩, ⟨0xF0FF, 0xF00A⟩, ⟨0xF0FF, 0xF015⟩, ⟨0xF0FF, 0xF018⟩, ⟨0xF0FF, 0xF01E⟩,
   ⟨0xF0FF, 0xF029⟩, ⟨0xF0FF, 0xF033⟩, ⟨0xF0FF, 0xF055⟩, ⟨0xF0FF, 0xF065⟩]

/-- A word as memory stores it, most significant byte first (R61, R90). -/
def bytesOfWord (op : Word) : List Byte :=
  [BitVec.ofNat 8 (bits op 15 8), BitVec.ofNat 8 (bits op 7 0)]

/-- The bytes of an instruction in memory order (R90). -/
def encodeBytes (i : Instr) : List Byte := bytesOfWord (encode i)

/-- The word an opcode-table row of `nbits` bits with value `w` stands for: an instruction is one word,
and bits above `nbits` are zero. -/
def tableWord (nbits w : Nat) : Word := BitVec.ofNat 16 (w % 2 ^ nbits)

/-- The host's question: the instruction the decoder reads from the bytes of a table row's word. -/
def decodeTableWord (nbits w : Nat) : Option Instr :=
  match decode (bytesOfWord (tableWord nbits w)) with
  | .ok (i, _) => some i
  | .error _ => none

end Sys2Proof
end

