-- ==== Sys2Proof/Config.lean ====
section
/-! DEFINITION. What is fixed for the machine (00_scope.md R5), the shape of its open parameters
(R6: `FONT_BASE`, `FONT_GLYPHS`), and the free values: inputs under no law (10_state.md R39). -/

namespace Sys2Proof.Config

/-- `MEM_SIZE`: bytes of memory, addresses 0x000..0xFFF (R5). -/
abbrev memSize : Nat := 4096

/-- `PROGRAM_BASE`: load address and reset `pc` (R5). -/
abbrev programBase : Nat := 0x200

/-- `MAX_PROGRAM`: largest program image in bytes (R5). -/
abbrev maxProgram : Nat := 3584

/-- `STACK_DEPTH`: call stack slots (R5). -/
abbrev stackDepth : Nat := 16

/-- `GLYPH_BYTES`: bytes per font glyph (R5). -/
abbrev glyphBytes : Nat := 5

/-- `GLYPH_COUNT * GLYPH_BYTES`: bytes of the font (R5). -/
abbrev fontSize : Nat := 80

/-- The open parameters `FONT_BASE` and `FONT_GLYPHS` (R6, R69): where the glyphs stand and their 80
bytes, glyph 0 first, 5 bytes per glyph. -/
structure Font where
  base   : Nat
  glyphs : Vector Byte 80
  deriving DecidableEq, Repr

/-- The constraint of R6: `FONT_BASE + 80 <= 0x200`. -/
def Font.wf (f : Font) : Bool := decide (f.base + fontSize ≤ programBase)

/-- One sample of the `keys` input (R39): bit k is 1 iff logical key k is pressed; `pick` is the input
collaborator's choice among several pressed keys, used by wait-key only (R202, D13). -/
structure KeySample where
  keys : BitVec 16
  pick : Nat
  deriving DecidableEq, Repr

/-- The free value of the `n`-th draw from `keys` by a keypad skip: any pressed-set (R39, R200). -/
opaque keysDraw : Nat → BitVec 16

/-- The free value of the `n`-th draw for a wait-key whose hold a key press lifts: any logical key
(R202, D13). -/
opaque waitKeyDraw : Nat → Key

/-- The free value of the `n`-th draw from `rand`: any byte, under no law (R172, D14). -/
opaque randDraw : Nat → Byte

/-- One less than `EXIT_STATUS_FAULT`, which is any nonzero value (R6, D17); an annotation only. -/
opaque exitStatusFaultPred : Nat

end Sys2Proof.Config
end

