-- ==== Sys2Proof/Machine/Font.lean ====
section
/-! DEFINITION. The default font parameters (00_scope.md R6, 20_memory.md R69). -/

namespace Sys2Proof.Machine

/-- The default `FONT_GLYPHS`, the table of R69 row by row (general knowledge in the spec, D8). -/
def defaultGlyphs : Vector Byte 80 := #v[
  0xF0, 0x90, 0x90, 0x90, 0xF0,  0x20, 0x60, 0x20, 0x20, 0x70,
  0xF0, 0x10, 0xF0, 0x80, 0xF0,  0xF0, 0x10, 0xF0, 0x10, 0xF0,
  0x90, 0x90, 0xF0, 0x10, 0x10,  0xF0, 0x80, 0xF0, 0x10, 0xF0,
  0xF0, 0x80, 0xF0, 0x90, 0xF0,  0xF0, 0x10, 0x20, 0x40, 0x40,
  0xF0, 0x90, 0xF0, 0x90, 0xF0,  0xF0, 0x90, 0xF0, 0x10, 0xF0,
  0xF0, 0x90, 0xF0, 0x90, 0x90,  0xE0, 0x90, 0xE0, 0x90, 0xE0,
  0xF0, 0x80, 0x80, 0x80, 0xF0,  0xE0, 0x90, 0x90, 0x90, 0xE0,
  0xF0, 0x80, 0xF0, 0x80, 0xF0,  0xF0, 0x80, 0xF0, 0x80, 0x80]

/-- The default `FONT_BASE` (R6, D7). -/
def defaultFontBase : Nat := 0x000

/-- The font parameters a machine has when nobody names others. -/
def defaultFont : Config.Font := { base := defaultFontBase, glyphs := defaultGlyphs }

end Sys2Proof.Machine
end

