-- ==== Sys2Proof/Machine/State.lean ====
section
/-! DEFINITION. The state of the machine as plain data (10_state.md R20 to R44), its reset value, and
the reasons a step can end without a next state. -/

namespace Sys2Proof.Machine

/-- The cause and info of a fatal fault, as the fault record holds them (10_state.md R37; the list is
60_exceptions.md R210).  `pc` is the address of the faulting instruction.  Raised by the engine; the
machine then rests in `Run.faulted` (R216). -/
inductive Cause where
  /-- Cause 1: the word `op` fetched from `pc` matches no key (R211). -/
  | unknownOpcode (op pc : Word)
  /-- Cause 2: the fetch at `pc` reaches `addr`, the first address above 0xFFF (R212). -/
  | addressFetch (addr : Nat) (pc : Word)
  /-- Cause 3: a data access reaches `addr`, its lowest address above 0xFFF (R213). -/
  | addressData (addr : Nat) (pc : Word)
  /-- Cause 4: a call with all 16 slots occupied (R214). -/
  | stackOverflow (pc : Word)
  /-- Cause 5: a keypad skip on the value `key`, which is above 0x0F (R215). -/
  | invalidKey (key : Byte) (pc : Word)
  deriving DecidableEq, Repr

/-- `RUN`, the engine's run state (R36). -/
inductive Run where
  | running
  | stopped
  | faulted (cause : Cause)
  deriving DecidableEq, Repr

/-- One output event of the CORE (R40). -/
inductive Event where
  /-- The framebuffer as it stands when the emitting instruction has finished its writes. -/
  | present (fb : Framebuffer)
  /-- One tick at which the sound timer is nonzero (R224). -/
  | audioTrigger
  /-- The transition to the given final run state. -/
  | halted (run : Run)
  deriving DecidableEq, Repr

/-- What the keypad does after the listed samples are used up: it goes on presenting free samples and
a press ends every hold, or no key is ever pressed again (R128, R249; notes/assumptions/5.md). -/
inductive Keypad where
  | live
  | idle
  deriving DecidableEq, Repr

/-- The inputs of R39 as plain data: what the environment will present next.  The model's own record,
not a register of the CORE (R44). -/
structure Inputs where
  /-- Cycles whose stop sample still reads 0 before `stop` has risen; `none`: it never rises. -/
  stop   : Option Nat
  /-- The next samples of `keys`, oldest first. -/
  keys   : List Config.KeySample
  /-- The keypad once `keys` is used up. -/
  keypad : Keypad
  /-- The next samples of `rand`, oldest first; used up, the samples are free values. -/
  rands  : List Byte
  /-- How many free values have been drawn: the argument of the next one. -/
  draws  : Nat
  deriving DecidableEq, Repr

/-- The complete state of R20, and after it the model's own records: the configuration (R6, R44), the
inputs (R39), the event history (R40) and the tick count (R249). -/
structure State where
  /-- `V[0..15]`; `V[15]` is VF (R21, R23). -/
  v       : Vector Byte 16
  /-- `I`, the index register (R27). -/
  i       : Word
  /-- `pc` (R24). -/
  pc      : Word
  /-- `SP`, the number of occupied slots, 0 to 16 (R29). -/
  sp      : Fin 17
  /-- `STACK[0..15]` (R28). -/
  stack   : Vector Word 16
  /-- `DT`, the delay timer (R31). -/
  dt      : Byte
  /-- `ST`, the sound timer (R32). -/
  st      : Byte
  /-- `FB[0..31][0..63]` (R33). -/
  fb      : Framebuffer
  /-- `MEM`: the cells that differ from what an unlisted address reads as (R34). -/
  mem     : List Host.Cell
  /-- `RUN` with the fault record (R36, R37). -/
  run     : Run
  /-- `FONT_BASE` and `FONT_GLYPHS`: configuration, written by no step (R6). -/
  font    : Config.Font
  /-- The inputs (R39). -/
  inputs  : Inputs
  /-- The output events emitted so far, NEWEST FIRST (R40). -/
  history : List Event
  /-- The ticks taken so far (R222, R249). -/
  ticks   : Nat
  deriving DecidableEq, Repr

/-- Why the machine has no next state although no fault of the hardware was raised. -/
inductive Fault where
  /-- Raised by wait-key alone: no listed sample has a pressed key and no key is ever pressed again, so
  the engine waits for ever (R128, R247, V4: stuck).  Safe: the hardware has no next state either. -/
  | waitKeyHang
  deriving DecidableEq, Repr

/-- Why the model gives an instruction no meaning. -/
inductive Refusal where
  /-- Raised by an arm of `exec` whose instruction has no meaning yet.  Safe: nothing can be proved of
  the refused instruction. -/
  | notModelled (mnemonic : String)
  deriving DecidableEq, Repr

/-- Why the host never releases the engine from reset (20_memory.md R70, 60_exceptions.md R218). -/
inductive LoadError where
  /-- The program image is unreadable or absent. -/
  | unreadable
  /-- The program image is longer than 3584 bytes (D18). -/
  | tooLong
  deriving DecidableEq, Repr

/-- The inputs at release: `stop` is 0 (R242); that it never rises, that no sample is listed and that
the keypad is live is the model's choice (notes/assumptions/5.md, 6.md). -/
def Inputs.reset : Inputs :=
  { stop := none, keys := [], keypad := .live, rands := [], draws := 0 }

/-- The machine right after reset with no program loaded: the table of R43.  Nothing is listed in
memory, so every address reads as its reset content. -/
def State.reset : State :=
  { v := Vector.replicate 16 0
    i := 0
    pc := 0x200
    sp := 0
    stack := Vector.replicate 16 0
    dt := 0
    st := 0
    fb := Vector.replicate 32 (Vector.replicate 64 false)
    mem := []
    run := .running
    font := defaultFont
    inputs := Inputs.reset
    history := []
    ticks := 0 }

end Sys2Proof.Machine
end

