-- ==== Sys2Proof/Machine/Memory.lean ====
section
/-! DEFINITION. Memory as a canonical list of cells (20_memory.md R60, R68, R69; 10_state.md R34,
R43): addresses strictly rise and no listed byte equals what the unlisted address reads as. -/

namespace Sys2Proof.Machine

/-- What an address that is not listed reads as: its reset content, a glyph byte inside the font region
(R69) and 0x00 everywhere else (R43, D6). -/
def Memory.background (f : Config.Font) (a : Nat) : Byte :=
  if h : f.base ≤ a ∧ a < f.base + 80 then f.glyphs[a - f.base]'(by omega) else 0

/-- The listed byte at `a`. -/
def Memory.lookup : List Host.Cell → Nat → Option Byte
  | [], _ => none
  | (k, b) :: m, a => if k = a then some b else Memory.lookup m a

/-- The byte at `a` (R60): reading has no side effect. -/
def Memory.read (f : Config.Font) (m : List Host.Cell) (a : Nat) : Byte :=
  (Memory.lookup m a).getD (Memory.background f a)

/-- List the byte `b` at `a`, keeping the addresses rising. -/
def Memory.insert : List Host.Cell → Nat → Byte → List Host.Cell
  | [], a, b => [(a, b)]
  | (k, c) :: m, a, b =>
    if a < k then (a, b) :: (k, c) :: m
    else if a = k then (a, b) :: m
    else (k, c) :: Memory.insert m a b

/-- Take `a` out of the list. -/
def Memory.erase : List Host.Cell → Nat → List Host.Cell
  | [], _ => []
  | (k, c) :: m, a => if k = a then Memory.erase m a else (k, c) :: Memory.erase m a

/-- `MEM[a] <- b` (R60), in canonical form: writing what the unlisted address reads as unlists it. -/
def Memory.write (f : Config.Font) (m : List Host.Cell) (a : Nat) (b : Byte) : List Host.Cell :=
  if b = Memory.background f a then Memory.erase m a else Memory.insert m a b

/-- Every listed address is at least `lo`, in range, above its predecessor, and holds another byte than
the unlisted address. -/
def Memory.wfFrom (f : Config.Font) : Nat → List Host.Cell → Bool
  | _, [] => true
  | lo, (k, b) :: m =>
    decide (lo ≤ k) && decide (k < Config.memSize) && decide (b ≠ Memory.background f k)
      && Memory.wfFrom f (k + 1) m

/-- The canonical form: strictly rising addresses inside 0x000..0xFFF and no byte that its unlisted
address reads as. -/
def Memory.wf (f : Config.Font) (m : List Host.Cell) : Bool := Memory.wfFrom f 0 m

end Sys2Proof.Machine
end

