-- ==== Sys2Proof/Machine/Ops.lean ====
section
/-! DEFINITION. The named operations over registers, memory, stack, timers and inputs, fault entry, and
the phases of a cycle before execute (00_scope.md R9; 10_state.md; 40_execution_cycle.md;
60_exceptions.md R216, R223). -/

namespace Sys2Proof.Machine

/-! ### Registers -/

/-- VF is `V[15]` (R23). -/
def flagReg : Reg := 15

/-- `V[k]` (R9). -/
def State.getV (s : State) (k : Reg) : Byte := s.v[k.val]

/-- `V[k] <- b` (R9); no register is hardwired (R21). -/
def State.setV (s : State) (k : Reg) (b : Byte) : State := { s with v := s.v.set k.val b }

/-- `I <- w` (R27). -/
def State.setI (s : State) (w : Word) : State := { s with i := w }

/-- `pc <- w` (R24). -/
def State.setPc (s : State) (w : Word) : State := { s with pc := w }

/-- `DT <- b` (R31). -/
def State.setDT (s : State) (b : Byte) : State := { s with dt := b }

/-- `ST <- b` (R32). -/
def State.setST (s : State) (b : Byte) : State := { s with st := b }

/-- Replace the framebuffer; used by the draw unit alone (R33). -/
def State.setFB (s : State) (fb : Framebuffer) : State := { s with fb := fb }

/-- `VF <- f` and then `V[x] <- r`, in that order: with `x = 15` the result survives (R160, D9). -/
def State.writeFlagged (s : State) (x : Reg) (f r : Byte) : State := (s.setV flagReg f).setV x r

/-! ### The program counter -/

/-- The default advance, `pc <- pc + 2` (R125). -/
def State.advance (s : State) : State := s.setPc (s.pc + 2)

/-- The end of a conditional skip: `pc <- pc + 4` when the condition holds, `pc <- pc + 2` when it does
not (R126). -/
def State.skipIf (s : State) (c : Bool) : State := s.setPc (if c then s.pc + 4 else s.pc + 2)

/-! ### Memory -/

/-- `MemRead(a, 1)` at a valid address (R9, R60). -/
def State.readByte (s : State) (a : Nat) : Byte := Memory.read s.font s.mem a

/-- `MemWrite(a, 1, b)` at a valid address (R9, R60). -/
def State.writeByte (s : State) (a : Nat) (b : Byte) : State :=
  { s with mem := Memory.write s.font s.mem a b }

/-- The bytes at `a`, `a + 1`, ..., ascending (R67). -/
def State.readBytes (s : State) : Nat → Nat → List Byte
  | _, 0 => []
  | a, n + 1 => s.readByte a :: State.readBytes s (a + 1) n

/-- Store the bytes at `a`, `a + 1`, ..., ascending (R63, R67). -/
def State.storeBytes : State → Nat → List Byte → State
  | s, _, [] => s
  | s, a, b :: bs => State.storeBytes (s.writeByte a b) (a + 1) bs

/-- Load the bytes into `V[k]`, `V[k+1]`, ..., ascending (R185). -/
def State.loadBytes : State → Nat → List Byte → State
  | s, _, [] => s
  | s, k, b :: bs => State.loadBytes (s.setV (Fin.ofNat 16 k) b) (k + 1) bs

/-! ### The call stack -/

/-- The stack slot `k` (R28). -/
def State.getSlot (s : State) (k : Fin 16) : Word := s.stack[k.val]

/-- `STACK[SP] <- w; SP <- SP + 1` for a stack that is not full (R30). -/
def State.push (s : State) (w : Word) (h : s.sp.val < 16) : State :=
  { s with stack := s.stack.set s.sp.val w, sp := ⟨s.sp.val + 1, by omega⟩ }

/-- `max(SP - 1, 0)`: the stack pointer after a pop, clamped at 0 (R30, conflict C2). -/
def State.poppedSp (s : State) : Fin 16 := ⟨s.sp.val - 1, by omega⟩

/-- `SP <- max(SP - 1, 0)`; the slot is not cleared (R30). -/
def State.pop (s : State) : State := { s with sp := s.poppedSp.castSucc }

/-! ### Output events and the end of a run -/

/-- `emit e` (R9, R40). -/
def State.emit (s : State) (e : Event) : State := { s with history := e :: s.history }

/-- `RUN <- r` and `emit halted(r)`: the transition to a final run state (R40, R121, R216). -/
def State.halt (s : State) (r : Run) : State := ({ s with run := r } : State).emit (.halted r)

/-- FAULT ENTRY, the hardware's one way to take an exception: the current instruction writes nothing,
`RUN <- FAULTED(cause, info)` and `emit halted(RUN)`; nothing else is saved and control goes nowhere
(R216).  There is no return from it (R221). -/
def State.raise (s : State) (c : Cause) : State := s.halt (.faulted c)

/-- The cause number of a fault (R210, D17). -/
def Cause.code : Cause → Nat
  | .unknownOpcode _ _ => 1
  | .addressFetch _ _ => 2
  | .addressData _ _ => 3
  | .stackOverflow _ => 4
  | .invalidKey _ _ => 5

/-- The lowest out-of-range address of a data access to `count` bytes at `I`: `max(I, 0x1000)` when the
highest address `I + count - 1` is above 0xFFF; an access to no byte forms no address (R64, R65,
R192, R213). -/
def State.dataFault (s : State) (count : Nat) : Option Nat :=
  if 0 < count ∧ 0xFFF < s.i.toNat + count - 1 then some (max s.i.toNat 0x1000) else none

/-- An instruction that accesses `count` bytes at `I` and, when all are in range, leaves `t`: the check
precedes every write (R213, R216, D22). -/
def State.guardData (s : State) (count : Nat) (t : State) : Host.Outcome State Fault Refusal :=
  match s.dataFault count with
  | some a => .next (s.raise (.addressData a s.pc))
  | none => .next t

/-! ### Inputs -/

/-- Count one free value as drawn. -/
def State.countDraw (s : State) : State :=
  { s with inputs := { s.inputs with draws := s.inputs.draws + 1 } }

/-- The next sample of `rand`: listed, or a free value (R39, R172). -/
def State.randSample (s : State) : Byte :=
  match s.inputs.rands with
  | b :: _ => b
  | [] => Config.randDraw s.inputs.draws

/-- The state after the sample of `rand` has been taken. -/
def State.afterRand (s : State) : State :=
  match s.inputs.rands with
  | _ :: bs => { s with inputs := { s.inputs with rands := bs } }
  | [] => s.countDraw

/-- The next sample of `keys` a keypad skip takes: listed; then free on a live keypad and no key
pressed on an idle one (R39, R200). -/
def State.keySample (s : State) : BitVec 16 :=
  match s.inputs.keys, s.inputs.keypad with
  | k :: _, _ => k.keys
  | [], .live => Config.keysDraw s.inputs.draws
  | [], .idle => 0

/-- Replace the listed samples of `keys`. -/
def State.setKeys (s : State) (ks : List Config.KeySample) : State :=
  { s with inputs := { s.inputs with keys := ks } }

/-- The state after one sample of `keys` has been taken. -/
def State.afterKeys (s : State) : State :=
  match s.inputs.keys, s.inputs.keypad with
  | _ :: ks, _ => s.setKeys ks
  | [], .live => s.countDraw
  | [], .idle => s

/-- The logical keys a sample shows pressed, ascending (R39). -/
def pressedKeys (keys : BitVec 16) : List Key :=
  (List.finRange 16).filter fun k => keys.getLsbD k.val

/-- The pressed key the input collaborator answers with, if any key is pressed: any of them, as `pick`
says (R202, D13). -/
def chosenKey (k : Config.KeySample) : Option Key :=
  (pressedKeys k.keys)[k.pick % (pressedKeys k.keys).length]?

/-- Take samples until one shows a pressed key: that key and the samples left after it (R202). -/
def awaitKey : List Config.KeySample → Option (Key × List Config.KeySample)
  | [] => none
  | k :: ks =>
    match chosenKey k with
    | some key => some (key, ks)
    | none => awaitKey ks

/-! ### The stop sample -/

/-- The sample of `stop` at the start of a cycle (R121). -/
def State.stopSeen (s : State) : Bool := s.inputs.stop == some 0

/-- The state after a stop sample that read 0: one such sample fewer is left before `stop` has risen. -/
def State.afterStopSample (s : State) : State :=
  { s with inputs := { s.inputs with stop := s.inputs.stop.map (· - 1) } }

/-! ### The timer drain -/

/-- One tick of the drain: emit `audio_trigger` if `ST > 0`, tested before the decrement, and decrement
each nonzero timer (R223, R224, D16). -/
def State.tick (s : State) : State :=
  { s with
    history := if s.st = 0 then s.history else .audioTrigger :: s.history
    dt := if s.dt = 0 then 0 else s.dt - 1
    st := if s.st = 0 then 0 else s.st - 1
    ticks := s.ticks + 1 }

/-- `n` ticks. -/
def State.tickN : Nat → State → State
  | 0, s => s
  | n + 1, s => State.tickN n s.tick

/-- The drain, phase 2 of a cycle: ticks while `DT != 0 or ST != 0`, that is `max(DT, ST)` ticks
(R122, R223). -/
def State.drain (s : State) : State := State.tickN (max s.dt.toNat s.st.toNat) s

/-! ### Fetch and decode -/

/-- The first out-of-range address of a fetch at `pc`: `pc` itself, or 0x1000 for the second byte when
`pc = 0xFFF` (R123, R212).  No alignment is checked (R26, R66). -/
def State.fetchFault (s : State) : Option Nat :=
  if 0xFFE < s.pc.toNat then some (if s.pc.toNat ≤ 0xFFF then 0x1000 else s.pc.toNat) else none

/-- The fetched word, `MEM[pc] ++ MEM[pc+1]` (R61, R123). -/
def State.fetchWord (s : State) : Word :=
  wordOfBytes (s.readByte s.pc.toNat) (s.readByte (s.pc.toNat + 1))

/-- Fetch and decode, phases 3 and 4: the instruction at `pc`, or the fault they raise (R123, R124,
R219). -/
def State.fetchDecode (s : State) : Except Cause Instr :=
  match s.fetchFault with
  | some a => .error (.addressFetch a s.pc)
  | none =>
    match decodeWord s.fetchWord with
    | .ok i => .ok i
    | .error _ => .error (.unknownOpcode s.fetchWord s.pc)

/-- The state a cycle runs its fetch, decode and execute phases from: after the stop sample and the
drain (R120). -/
def State.ready (s : State) : State := s.afterStopSample.drain

end Sys2Proof.Machine
end

