-- ==== Sys2Proof/Machine/Operands.lean ====
section
/-! DEFINITION. The operand forms: immediates, the indirect address through `I`, jump targets, the
glyph address and the decimal digits (30_encoding.md R92; 20_memory.md R65; files 41 to 46). -/

namespace Sys2Proof.Machine

/-- `zext_16(nnn)`, the 12-bit address operand as it is written to `pc` or `I` (R92). -/
def addressOperand (nnn : Nat) : Word := BitVec.ofNat 16 nnn

/-- `zext_16(b)` (R7). -/
def zext16 (b : Byte) : Word := b.setWidth 16

/-- The effective address `I + k`, with no wrap at 12 or 16 bits (R65). -/
def State.dataAddr (s : State) (k : Nat) : Nat := s.i.toNat + k

/-- The target of jump-offset: `zext_16(nnn) + zext_16(V[0])`, no mask (R143, D1). -/
def State.offsetTarget (s : State) (nnn : Nat) : Word := addressOperand nnn + zext16 (s.getV 0)

/-- `FONT_BASE + 5 * zext_16(V[x])`, the whole 8-bit value (R182). -/
def State.glyphAddr (s : State) (b : Byte) : Word :=
  BitVec.ofNat 16 (s.font.base + Config.glyphBytes * b.toNat)

/-- The hundreds, tens and units digit of a byte (R183). -/
def bcdDigits (b : Byte) : List Byte :=
  [BitVec.ofNat 8 (b.toNat / 100), BitVec.ofNat 8 (b.toNat / 10 % 10), BitVec.ofNat 8 (b.toNat % 10)]

/-- `V[0..x]`, the registers store-regs stores: `x + 1` of them (R184, conflict C8). -/
def State.regsUpTo (s : State) (x : Reg) : List Byte := s.v.toList.take (x.val + 1)

/-- The number of bytes store-regs and load-regs access (R67, R184, R185). -/
def regCount (x : Reg) : Nat := x.val + 1

/-- The logical key a register value names, if it is one (R200, R215). -/
def keyOperand (b : Byte) : Option Key := if h : b.toNat < 16 then some ⟨b.toNat, h⟩ else none

/-- A logical key as the byte wait-key writes (R202). -/
def keyByte (k : Key) : Byte := BitVec.ofNat 8 k.val

end Sys2Proof.Machine
end

