-- ==== Sys2Proof/Machine/Flags.lean ====
section
/-! DEFINITION. The values the flag-writing instructions write to VF, each 0x00 or 0x01
(10_state.md R23; 43_register_alu.md R167 to R171; 45_display.md R192). -/

namespace Sys2Proof.Machine

/-- VF is written as the full 8-bit register with 0x00 or 0x01 (R23). -/
def flagByte (c : Bool) : Byte := if c then 1 else 0

/-- add-reg: the carry, 1 iff `a + b >= 256` (R167). -/
def carryFlag (a b : Byte) : Byte := flagByte (decide (256 ≤ a.toNat + b.toNat))

/-- sub and subn: 1 iff `a > b`, strictly, for the minuend `a` (R168, R170). -/
def greaterFlag (a b : Byte) : Byte := flagByte (decide (b.toNat < a.toNat))

/-- shr: the bit shifted out, `a[0]` (R169). -/
def lowBitFlag (a : Byte) : Byte := flagByte (a.getLsbD 0)

/-- shl: the bit shifted out, `a[7]` (R171). -/
def highBitFlag (a : Byte) : Byte := flagByte (a.getLsbD 7)

/-- draw: 1 iff a pixel went from on to off (R192). -/
def collisionFlag (hit : Bool) : Byte := flagByte hit

end Sys2Proof.Machine
end

