-- ==== Sys2Proof/Machine/Alu.lean ====
section
/-! DEFINITION. Register load, arithmetic, logic, shift and random instructions (43_register_alu.md).
Operands are read before any write and the flag is written before the result (R160). -/

namespace Sys2Proof.Machine

/-- `set-imm Vx,kk` (R161). -/
def execSetImm (x : Reg) (kk : Byte) (s : State) : Host.Outcome State Fault Refusal :=
  .next (s.setV x kk).advance

/-- `add-imm Vx,kk` (R162): no flag is written. -/
def execAddImm (x : Reg) (kk : Byte) (s : State) : Host.Outcome State Fault Refusal :=
  .next (s.setV x (s.getV x + kk)).advance

/-- `move Vx,Vy` (R163). -/
def execMove (x y : Reg) (s : State) : Host.Outcome State Fault Refusal :=
  .next (s.setV x (s.getV y)).advance

/-- `or Vx,Vy` (R164): VF is left unchanged. -/
def execOr (x y : Reg) (s : State) : Host.Outcome State Fault Refusal :=
  .next (s.setV x (s.getV x ||| s.getV y)).advance

/-- `and Vx,Vy` (R165): VF is left unchanged. -/
def execAnd (x y : Reg) (s : State) : Host.Outcome State Fault Refusal :=
  .next (s.setV x (s.getV x &&& s.getV y)).advance

/-- `xor Vx,Vy` (R166): VF is left unchanged. -/
def execXor (x y : Reg) (s : State) : Host.Outcome State Fault Refusal :=
  .next (s.setV x (s.getV x ^^^ s.getV y)).advance

/-- `add-reg Vx,Vy` (R167). -/
def execAddReg (x y : Reg) (s : State) : Host.Outcome State Fault Refusal :=
  .next (s.writeFlagged x (carryFlag (s.getV x) (s.getV y)) (s.getV x + s.getV y)).advance

/-- `sub Vx,Vy` (R168). -/
def execSub (x y : Reg) (s : State) : Host.Outcome State Fault Refusal :=
  .next (s.writeFlagged x (greaterFlag (s.getV x) (s.getV y)) (s.getV x - s.getV y)).advance

/-- `shr Vx` (R169): the operand is `V[x]`. -/
def execShr (x : Reg) (s : State) : Host.Outcome State Fault Refusal :=
  .next (s.writeFlagged x (lowBitFlag (s.getV x)) (s.getV x >>> 1)).advance

/-- `subn Vx,Vy` (R170): the minuend is `V[y]`. -/
def execSubn (x y : Reg) (s : State) : Host.Outcome State Fault Refusal :=
  .next (s.writeFlagged x (greaterFlag (s.getV y) (s.getV x)) (s.getV y - s.getV x)).advance

/-- `shl Vx` (R171): the operand is `V[x]`. -/
def execShl (x : Reg) (s : State) : Host.Outcome State Fault Refusal :=
  .next (s.writeFlagged x (highBitFlag (s.getV x)) (s.getV x <<< 1)).advance

/-- `rand Vx,kk` (R172): one sample of `rand`, masked. -/
def execRand (x : Reg) (kk : Byte) (s : State) : Host.Outcome State Fault Refusal :=
  .next (s.afterRand.setV x (s.randSample &&& kk)).advance

end Sys2Proof.Machine
end

