-- ==== Sys2Proof/Machine/Control.lean ====
section
/-! DEFINITION. Control transfer: return, jump, call, jump-offset (41_control_transfer.md). -/

namespace Sys2Proof.Machine

/-- `return` (R140): the popped slot is the next `pc`; on an empty stack slot 0 is read and `SP` stays
0, which is no fault (R217). -/
def execRet (s : State) : Host.Outcome State Fault Refusal :=
  .next (s.pop.setPc (s.getSlot s.poppedSp))

/-- `jump nnn` (R141). -/
def execJump (nnn : Nat) (s : State) : Host.Outcome State Fault Refusal :=
  .next (s.setPc (addressOperand nnn))

/-- `call nnn` (R142): a full stack raises StackOverflow (R214, D3). -/
def execCall (nnn : Nat) (s : State) : Host.Outcome State Fault Refusal :=
  if h : s.sp.val < 16 then .next ((s.push (s.pc + 2) h).setPc (addressOperand nnn))
  else .next (s.raise (.stackOverflow s.pc))

/-- `jump-offset nnn` (R143). -/
def execJumpOffset (nnn : Nat) (s : State) : Host.Outcome State Fault Refusal :=
  .next (s.setPc (s.offsetTarget nnn))

end Sys2Proof.Machine
end

