-- ==== Sys2Proof/Machine/Display.lean ====
section
/-! DEFINITION. The framebuffer draw unit: clear-screen and draw (45_display.md). -/

namespace Sys2Proof.Machine

/-- `FB[y][x]` (R9, R33). -/
def pixel (fb : Framebuffer) (y : Fin 32) (x : Fin 64) : Bool := (fb[y.val])[x.val]

/-- `FB[y][x] <- c`. -/
def setPixel (fb : Framebuffer) (y : Fin 32) (x : Fin 64) (c : Bool) : Framebuffer :=
  fb.set y.val ((fb[y.val]).set x.val c)

/-- All pixels off (R191). -/
def blankScreen : Framebuffer := Vector.replicate 32 (Vector.replicate 64 false)

/-- The draw unit at work: the framebuffer and the collision flag accumulated so far (R192). -/
structure Blit where
  fb  : Framebuffer
  hit : Bool
  deriving DecidableEq, Repr

/-- One sprite bit at one pixel: XOR, and a collision if both were 1 (R192). -/
def blitPixel (b : Blit) (y : Fin 32) (x : Fin 64) (c : Bool) : Blit :=
  { fb := setPixel b.fb y x (pixel b.fb y x ^^ c), hit := b.hit || (c && pixel b.fb y x) }

/-- The bit of a sprite row for column `col`: bit `7 - col` of the row byte (R190, D10). -/
def spriteBit (row : Byte) (col : Nat) : Bool := row.getLsbD (7 - col)

/-- `(vx + col) mod 64` (R192). -/
def pixelColumn (vx : Byte) (col : Nat) : Fin 64 := Fin.ofNat 64 (vx.toNat + col)

/-- `(vy + r) mod 32` (R192). -/
def pixelRow (vy : Byte) (r : Nat) : Fin 32 := Fin.ofNat 32 (vy.toNat + r)

/-- Columns `col`, `col + 1`, ... of one sprite row, `k` of them. -/
def blitRow (vx : Byte) (y : Fin 32) (row : Byte) : Nat → Nat → Blit → Blit
  | _, 0, b => b
  | col, k + 1, b =>
    blitRow vx y row (col + 1) k (blitPixel b y (pixelColumn vx col) (spriteBit row col))

/-- Sprite rows `r`, `r + 1`, ...: all 8 columns of each (R192). -/
def blitRows (vx vy : Byte) : Nat → List Byte → Blit → Blit
  | _, [], b => b
  | r, row :: rows, b => blitRows vx vy (r + 1) rows (blitRow vx (pixelRow vy r) row 0 8 b)

/-- The sprite drawn at `(vx, vy)` over a framebuffer (R192). -/
def drawSprite (vx vy : Byte) (rows : List Byte) (fb : Framebuffer) : Blit :=
  blitRows vx vy 0 rows { fb := fb, hit := false }

/-- Install the drawn framebuffer, write VF once and last, and present (R192, D11). -/
def State.finishDraw (s : State) (b : Blit) : State :=
  ((s.setFB b.fb).setV flagReg (collisionFlag b.hit)).emit (.present b.fb)

/-- `clear-screen` (R191). -/
def execClearScreen (s : State) : Host.Outcome State Fault Refusal :=
  .next ((s.setFB blankScreen).emit (.present blankScreen)).advance

/-- `draw Vx,Vy,n` (R192): `V[x]`, `V[y]`, `I` and the rows are read before any write. -/
def execDraw (x y : Reg) (n : Nat) (s : State) : Host.Outcome State Fault Refusal :=
  s.guardData n
    (s.finishDraw (drawSprite (s.getV x) (s.getV y) (s.readBytes (s.dataAddr 0) n) s.fb)).advance

end Sys2Proof.Machine
end

