-- ==== Sys2Proof/Machine/Index.lean ====
section
/-! DEFINITION. Index-register and memory instructions (44_index_memory.md).  `I` is changed by no
access (D21). -/

namespace Sys2Proof.Machine

/-- `set-index nnn` (R180). -/
def execSetIndex (nnn : Nat) (s : State) : Host.Outcome State Fault Refusal :=
  .next (s.setI (addressOperand nnn)).advance

/-- `add-index Vx` (R181): the sum wraps at 16 bits (D5) and VF is not changed. -/
def execAddIndex (x : Reg) (s : State) : Host.Outcome State Fault Refusal :=
  .next (s.setI (s.i + zext16 (s.getV x))).advance

/-- `sprite-addr Vx` (R182). -/
def execSpriteAddr (x : Reg) (s : State) : Host.Outcome State Fault Refusal :=
  .next (s.setI (s.glyphAddr (s.getV x))).advance

/-- `bcd Vx` (R183): hundreds at `I`, tens at `I+1`, units at `I+2`. -/
def execBcd (x : Reg) (s : State) : Host.Outcome State Fault Refusal :=
  s.guardData 3 (s.storeBytes (s.dataAddr 0) (bcdDigits (s.getV x))).advance

/-- `store-regs Vx` (R184): `V[k]` to `I + k` for `k = 0..x`. -/
def execStoreRegs (x : Reg) (s : State) : Host.Outcome State Fault Refusal :=
  s.guardData (regCount x) (s.storeBytes (s.dataAddr 0) (s.regsUpTo x)).advance

/-- `load-regs Vx` (R185): `V[k]` from `I + k` for `k = 0..x`. -/
def execLoadRegs (x : Reg) (s : State) : Host.Outcome State Fault Refusal :=
  s.guardData (regCount x) (s.loadBytes 0 (s.readBytes (s.dataAddr 0) (regCount x))).advance

end Sys2Proof.Machine
end

