-- ==== Sys2Proof/Machine/KeypadTimer.lean ====
section
/-! DEFINITION. Keypad and timer instructions (46_keypad_timer.md). -/

namespace Sys2Proof.Machine

/-- `skip-key-pressed Vx` (R200): a value above 0x0F raises InvalidKey before any sample (D12). -/
def execSkipKeyPressed (x : Reg) (s : State) : Host.Outcome State Fault Refusal :=
  match keyOperand (s.getV x) with
  | some k => .next (s.afterKeys.skipIf (s.keySample.getLsbD k.val))
  | none => .next (s.raise (.invalidKey (s.getV x) s.pc))

/-- `skip-key-not-pressed Vx` (R201): a value above 0x0F raises InvalidKey before any sample (D12). -/
def execSkipKeyNotPressed (x : Reg) (s : State) : Host.Outcome State Fault Refusal :=
  match keyOperand (s.getV x) with
  | some k => .next (s.afterKeys.skipIf (!s.keySample.getLsbD k.val))
  | none => .next (s.raise (.invalidKey (s.getV x) s.pc))

/-- `wait-key Vx` (R202): the hold lasts to the first sample with a pressed key.  When the listed
samples show none, a live keypad answers with a free key, and on an idle one the engine waits for
ever: there is no next state (R128, R247). -/
def execWaitKey (x : Reg) (s : State) : Host.Outcome State Fault Refusal :=
  match awaitKey s.inputs.keys, s.inputs.keypad with
  | some (k, ks), _ => .next ((s.setKeys ks).setV x (keyByte k)).advance
  | none, .live =>
    .next ((s.setKeys []).countDraw.setV x (keyByte (Config.waitKeyDraw s.inputs.draws))).advance
  | none, .idle => .fault .waitKeyHang

/-- `get-delay Vx` (R203): a read of `DT`, which the drain has brought to 0 in every cycle. -/
def execGetDelay (x : Reg) (s : State) : Host.Outcome State Fault Refusal :=
  .next (s.setV x s.dt).advance

/-- `set-delay Vx` (R204). -/
def execSetDelay (x : Reg) (s : State) : Host.Outcome State Fault Refusal :=
  .next (s.setDT (s.getV x)).advance

/-- `set-sound Vx` (R205). -/
def execSetSound (x : Reg) (s : State) : Host.Outcome State Fault Refusal :=
  .next (s.setST (s.getV x)).advance

end Sys2Proof.Machine
end

