-- ==== Sys2Proof/Machine/Skip.lean ====
section
/-! DEFINITION. Conditional skips on registers and immediates (42_conditional_skip.md). -/

namespace Sys2Proof.Machine

/-- `skip-eq-imm Vx,kk` (R150). -/
def execSkipEqImm (x : Reg) (kk : Byte) (s : State) : Host.Outcome State Fault Refusal :=
  .next (s.skipIf (s.getV x == kk))

/-- `skip-ne-imm Vx,kk` (R151). -/
def execSkipNeImm (x : Reg) (kk : Byte) (s : State) : Host.Outcome State Fault Refusal :=
  .next (s.skipIf (s.getV x != kk))

/-- `skip-eq-reg Vx,Vy` (R152). -/
def execSkipEqReg (x y : Reg) (s : State) : Host.Outcome State Fault Refusal :=
  .next (s.skipIf (s.getV x == s.getV y))

/-- `skip-ne-reg Vx,Vy` (R153). -/
def execSkipNeReg (x y : Reg) (s : State) : Host.Outcome State Fault Refusal :=
  .next (s.skipIf (s.getV x != s.getV y))

end Sys2Proof.Machine
end

