-- ==== Sys2Proof/Machine/Cycle.lean ====
section
/-! DEFINITION. One cycle of the Execution Engine: stop sample, timer drain, fetch, decode, execute
(40_execution_cycle.md R120 to R131). -/

namespace Sys2Proof.Machine

/-- Phases 3 to 5 of a cycle from the state the drain left (R123 to R125): the decoded instruction is
executed, or the fault of the fetch or the decode is raised (R130, R219). -/
def State.runInstruction (s : State) : Host.Outcome State Fault Refusal :=
  match s.fetchDecode with
  | .ok i => exec i s
  | .error c => .next (s.raise c)

/-- One cycle (R120).  A stop sample that reads 1 ends the run before the drain (R121); a machine that
has stopped or faulted performs no cycle and keeps its state (R36). -/
def State.cycle (s : State) : Host.Outcome State Fault Refusal :=
  match s.run with
  | .running => if s.stopSeen then .next (s.halt .stopped) else s.ready.runInstruction
  | .stopped => .next s
  | .faulted _ => .next s

/-- Make sure that the next cycle fetches: the engine runs, its stop sample reads 0, and `pc` addresses
a word inside memory. -/
def State.armFetch (s : State) : State :=
  { s with
    run := .running
    pc := if 0xFFE < s.pc.toNat then 0x200 else s.pc
    inputs := { s.inputs with stop := if s.stopSeen then none else s.inputs.stop } }

/-- Store an instruction word where the next cycle fetches it. -/
def State.placeWord (s : State) (op : Word) : State :=
  s.armFetch.storeBytes s.armFetch.pc.toNat (bytesOfWord op)

end Sys2Proof.Machine
end

