-- ==== Sys2Proof/Machine/Step.lean ====
section
/-! DEFINITION. One step of the machine is one cycle of the Execution Engine (40_execution_cycle.md R120,
R131). -/

namespace Sys2Proof.Machine

/-- One step: one cycle (R120, R131). -/
def step (s : State) : Host.Outcome State Fault Refusal := s.cycle

/-- `s` with the opcode-table word stored where `step` fetches its next instruction, so that the very
next step runs it (notes/assumptions/7.md says how a program comes to run from reset). -/
def State.withFetchWord (s : State) (nbits w : Nat) : State := s.placeWord (tableWord nbits w)

end Sys2Proof.Machine
end

