-- ==== Sys2Proof/Machine/Loader.lean ====
section
/-! DEFINITION. The host's part of reset: the glyph load, the program load and the release of the engine
(20_memory.md R69, R70; 60_exceptions.md R218, R231; 70_reset_and_hazards.md R240). -/

namespace Sys2Proof.Machine

/-- `load_builtin_sprites()`: the glyphs in ascending order, 5 bytes each, contiguous from `FONT_BASE`
(R69). -/
def State.loadBuiltinSprites (s : State) : State := s.storeBytes s.font.base s.font.glyphs.toList

/-- `load_program(bytes)`: the image verbatim from 0x200; `none` is an image that is unreadable or
absent, and one longer than 3584 bytes is refused (R70, R218, D18). -/
def State.loadProgram (s : State) : Option (List Byte) → Except LoadError State
  | none => .error .unreadable
  | some image =>
    if image.length ≤ Config.maxProgram then .ok (s.storeBytes Config.programBase image)
    else .error .tooLong

/-- The reset sequence (R240): every element at its reset value, the glyphs, the program; a load error
ends everything before any cycle. -/
def boot (font : Config.Font) (image : Option (List Byte)) : Except LoadError State :=
  State.loadProgram (State.loadBuiltinSprites { State.reset with font := font }) image

end Sys2Proof.Machine
end

