-- ==== Sys2Proof/Safety.lean ====
section
/-! DEFINITION. The terms claims are stated in: which part of the state a step may write, the
invariants of the machine, what a safe run is, and the exit status of a run. -/

namespace Sys2Proof.Machine

/-- Every word that selects the row decodes to the instruction `i` reads from it (R93). -/
def EncodedAs (mask pattern : Word) (i : Word → Instr) : Prop :=
  ∀ op : Word, op &&& mask = pattern → decodeWord op = .ok (i op)

/-- One part of the state: every element of R20, one register, slot, pixel row or byte at a time, and
the model's own records. -/
inductive Part where
  | v (k : Reg)
  | i
  | pc
  | sp
  | stack (k : Fin 16)
  | dt
  | st
  | fb
  | mem (a : Nat)
  | run
  | font
  | inputs
  | history
  | ticks
  deriving DecidableEq, Repr

/-- The two states agree on the part; memory is compared through the read of one byte. -/
def Part.same (s t : State) : Part → Prop
  | .v k => t.getV k = s.getV k
  | .i => t.i = s.i
  | .pc => t.pc = s.pc
  | .sp => t.sp = s.sp
  | .stack k => t.getSlot k = s.getSlot k
  | .dt => t.dt = s.dt
  | .st => t.st = s.st
  | .fb => t.fb = s.fb
  | .mem a => t.readByte a = s.readByte a
  | .run => t.run = s.run
  | .font => t.font = s.font
  | .inputs => t.inputs = s.inputs
  | .history => t.history = s.history
  | .ticks => t.ticks = s.ticks

/-- FRAME: `t` agrees with `s` on every part outside the written ones. -/
def AgreeOutside (written : Part → Prop) (s t : State) : Prop :=
  ∀ p : Part, ¬ written p → p.same s t

/-- The outcome of a raised fault: `RUN` holds the fault record, `halted` is emitted, and nothing else
has changed (R216). -/
def FaultsWith (s t : State) (c : Cause) : Prop :=
  t.run = .faulted c ∧ t.history = .halted (.faulted c) :: s.history ∧
    AgreeOutside (fun p => p = .run ∨ p = .history) s t

/-- The next cycle fetches a word: the engine runs, its stop sample reads 0, and both bytes at `pc` are
inside memory (R120, R121, R123). -/
def State.fetches (s : State) : Prop :=
  s.run = .running ∧ s.inputs.stop ≠ some 0 ∧ s.pc.toNat ≤ 0xFFE

/-- The next cycle fetches and decodes to the instruction `i` (R123, R124). -/
def State.willRun (s : State) (i : Instr) : Prop := s.fetches ∧ decodeWord s.fetchWord = .ok i

/-- The listed samples of `keys` show no key pressed. -/
def NoKeyListed (ks : List Config.KeySample) : Prop := ∀ k ∈ ks, k.keys = 0

/-- The memory stays in canonical form (R34, R60). -/
def State.memWf (s : State) : Prop := Memory.wf s.font s.mem = true

/-- No rule produces a `pc` above 0x10FE (R24) and no stack slot holds more than 0x1000, the largest
pushed value (R28). -/
def State.pcBound (s : State) : Prop :=
  s.pc.toNat ≤ 0x10FE ∧ ∀ k : Fin 16, (s.getSlot k).toNat ≤ 0x1000

/-- No fault has been raised (R129: every claim about a program takes "no fault" as a premise or proves
it). -/
def State.faultFree (s : State) : Prop := ∀ c : Cause, s.run ≠ .faulted c

/-- A safe run of `k` cycles: after each of them there is a next state and no fault has been raised. -/
def SafeRun (k : Nat) (s : State) : Prop :=
  ∀ j, j ≤ k → ∃ t : State, Sys2Proof.core.run j s = .next t ∧ t.faultFree

/-- The exit status of a run that has ended: 0 on a clean quit and `EXIT_STATUS_FAULT`, any nonzero
value, on a fault (R36, D17); an annotation (R4). -/
def Run.exitStatus : Run → Option Nat
  | .running => none
  | .stopped => some 0
  | .faulted _ => some (Config.exitStatusFaultPred + 1)

end Sys2Proof.Machine
end

