-- ==== Sys2Proof/Certificates/Slice0/Obligations.lean ====
section
/-! DEFINITION. The statements for the provers.  Each docstring names the rule of spec/ it formalises;
where a clause rests on a decision D<n> of the spec or on a choice of the model, it says so. -/

open Sys2Proof Sys2Proof.Machine

/-! ### Encoding -/

/-- R90, R92, R102: decoding the bytes of a well-formed instruction gives it back, whatever follows.
Nibble values the source does not print are D23 (log entry 16). -/
def Obligations.DecodeAfterEncodeGivesTheInstruction : Prop :=
  ∀ (i : Instr) (rest : List Byte), i.wellFormed = true →
    decode (encodeBytes i ++ rest) = .ok (i, rest)

/-- R93: a word selects the row whose mask and match fit it and no other, and decodes to that row's
operation; a word no row fits raises UnknownOpcode(op, pc) in the cycle that fetches it, which changes
nothing else after the stop sample and the drain (R130). Nibble values the source does not print are D23
(log entry 16). -/
def Obligations.DecoderFollowsTheOpcodeMap : Prop :=
  (∀ (op : Word) (r : OpcodeRow), r ∈ opcodeRows → r.selects op →
    ∃ i, decodeWord op = .ok i ∧ i.row = r) ∧
  (∀ (op : Word) (i : Instr), decodeWord op = .ok i → i.row ∈ opcodeRows ∧ i.row.selects op) ∧
  (∀ s : State, s.fetches → (∀ r ∈ opcodeRows, ¬ r.selects s.fetchWord) →
    ∃ t, step s = .next t ∧ FaultsWith s.ready t (.unknownOpcode s.fetchWord s.pc))

/-- R100: the complete list of unknown encodings. The keys are D23, and the 35th operation is none
(D20, log entry 16). -/
def Obligations.DecoderRefusesExactlyTheUnknownEncodings : Prop :=
  ∀ op : Word, decodeWord op = .error (.unknownOpcode op) ↔
    (bits op 15 12 = 0x0 ∧ bits op 3 0 ∉ [0x0, 0xE]) ∨
    (bits op 15 12 = 0x8 ∧ bits op 3 0 ∈ [8, 9, 0xA, 0xB, 0xC, 0xD, 0xF]) ∨
    (bits op 15 12 = 0xE ∧ bits op 3 0 ∉ [0x1, 0xE]) ∨
    (bits op 15 12 = 0xF ∧
      bits op 7 0 ∉ [0x07, 0x0A, 0x15, 0x18, 0x1E, 0x29, 0x33, 0x55, 0x65])

/-- R94 to R98: words written out from the opcode map decode to the instructions they stand for.
Nibble values the source does not print are D23 (log entry 16). -/
def Obligations.KnownWordsDecodeAsTheMapSays : Prop :=
  decodeWord 0x1012 = .ok (.jump 0x012) ∧
  decodeWord 0x3114 = .ok (.skipEqImm 1 0x14) ∧
  decodeWord 0x8124 = .ok (.addReg 1 2) ∧
  decodeWord 0x8125 = .ok (.sub 1 2) ∧
  decodeWord 0xF129 = .ok (.spriteAddr 1) ∧
  decodeWord 0xF133 = .ok (.bcd 1) ∧
  decodeWord 0x0000 = .ok .clearScreen ∧
  decodeWord 0x0ABE = .ok .ret ∧
  decodeWord 0xD123 = .ok (.draw 1 2 3) ∧
  decodeWord 0xE10E = .ok (.skipKeyPressed 1)

/-! ### Invariants and whole-machine rules -/

/-- R34, R60 and the model's canonical form of memory: every step keeps it. -/
def Obligations.StepKeepsMemoryCanonical : Prop :=
  ∀ s t : State, s.memWf → step s = .next t → t.memWf

/-- R24, R28: no step produces a `pc` above 0x10FE or a stack slot above 0x1000. -/
def Obligations.StepKeepsPcAndStackBounds : Prop :=
  ∀ s t : State, s.pcBound → step s = .next t → t.pcBound

/-- R6, R44: the configuration is not written, so its constraint holds for ever. -/
def Obligations.StepKeepsTheFontConfiguration : Prop :=
  ∀ s t : State, step s = .next t → t.font = s.font

/-- The reset state meets the invariants of the statements above. -/
def Obligations.ResetMeetsTheInvariants : Prop :=
  State.reset.memWf ∧ State.reset.pcBound ∧ State.reset.font.wf = true

/-- R43: the reset values.  All but `pc` are the spec's decisions D6, D7, D8 and D17. -/
def Obligations.ResetHoldsTheTableOfResetValues : Prop :=
  State.reset.pc = 0x200 ∧ State.reset.sp = 0 ∧ State.reset.i = 0 ∧
  (∀ k : Reg, State.reset.getV k = 0) ∧ (∀ k : Fin 16, State.reset.getSlot k = 0) ∧
  State.reset.dt = 0 ∧ State.reset.st = 0 ∧
  (∀ (y : Fin 32) (x : Fin 64), pixel State.reset.fb y x = false) ∧
  State.reset.font.base = 0 ∧
  (∀ (a : Nat) (h : a < 80), State.reset.readByte a = State.reset.font.glyphs[a]) ∧
  (∀ a : Nat, 80 ≤ a → State.reset.readByte a = 0) ∧
  State.reset.run = .running

/-- R34 and the model's representation: memories in canonical form that read the same are equal. -/
def Obligations.CanonicalMemoriesThatReadAlikeAreEqual : Prop :=
  ∀ (f : Config.Font) (m m' : List Host.Cell), Memory.wf f m = true → Memory.wf f m' = true →
    (∀ a, Memory.read f m a = Memory.read f m' a) → m = m'

/-- R33: the framebuffer is mutated by draw and clear-screen alone. -/
def Obligations.OnlyClearScreenAndDrawChangeTheFramebuffer : Prop :=
  ∀ (i : Instr) (s t : State), exec i s = .next t → t.fb ≠ s.fb →
    i = .clearScreen ∨ ∃ x y n, i = .draw x y n

/-- R28, R29: only call and return write SP, and only call writes a slot. -/
def Obligations.OnlyCallAndReturnTouchTheStack : Prop :=
  ∀ (i : Instr) (s t : State), exec i s = .next t →
    (t.sp ≠ s.sp → i = .ret ∨ ∃ nnn, i = .call nnn) ∧
    (∀ k : Fin 16, t.getSlot k ≠ s.getSlot k → k.val = s.sp.val ∧ ∃ nnn, i = .call nnn)

/-- R27: `I` is written by set-index, add-index and sprite-addr; the four instructions that use it as
a base leave it (D21). -/
def Obligations.OnlyTheIndexInstructionsWriteTheIndex : Prop :=
  ∀ (i : Instr) (s t : State), exec i s = .next t → t.i ≠ s.i →
    (∃ nnn, i = .setIndex nnn) ∨ (∃ x, i = .addIndex x) ∨ ∃ x, i = .spriteAddr x

/-- R67, R71: memory is written by bcd and store-regs alone, at the addresses they compute. -/
def Obligations.OnlyBcdAndStoreRegsWriteMemory : Prop :=
  ∀ (i : Instr) (s t : State) (a : Nat), exec i s = .next t → t.readByte a ≠ s.readByte a →
    (∃ x k, i = .bcd x ∧ k < 3 ∧ a = s.dataAddr k) ∨
    ∃ (x : Reg) (k : Nat), i = .storeRegs x ∧ k ≤ x.val ∧ a = s.dataAddr k

/-- R31, R32: an instruction changes `DT` only as set-delay and `ST` only as set-sound. -/
def Obligations.OnlyTheTimerInstructionsWriteTheTimers : Prop :=
  ∀ (i : Instr) (s t : State), exec i s = .next t →
    (t.dt ≠ s.dt → ∃ x, i = .setDelay x ∧ t.dt = s.getV x) ∧
    (t.st ≠ s.st → ∃ x, i = .setSound x ∧ t.st = s.getV x) ∧ t.ticks = s.ticks

/-- R31: `DT` is written by set-delay, read by get-delay and decremented by the ticks of the drain, not
below 0; no other instruction writes it or depends on it. -/
def Obligations.DelayTimerHasItsListedWritersAndReaders : Prop :=
  (∀ (x : Reg) (s : State), ∃ t, exec (.setDelay x) s = .next t ∧ t.dt = s.getV x) ∧
  (∀ (x : Reg) (s : State), ∃ t, exec (.getDelay x) s = .next t ∧ t.getV x = s.dt) ∧
  (∀ (i : Instr) (s t : State), exec i s = .next t → t.dt ≠ s.dt → ∃ x, i = .setDelay x) ∧
  (∀ (i : Instr) (s t : State) (b : Byte), (∀ x, i ≠ .getDelay x ∧ i ≠ .setDelay x) →
    exec i s = .next t → exec i (s.setDT b) = .next (t.setDT b)) ∧
  (∀ (x : Reg) (s : State) (b : Byte), exec (.setDelay x) (s.setDT b) = exec (.setDelay x) s) ∧
  (∀ s : State, s.tick.dt.toNat = s.dt.toNat - 1) ∧
  (∀ s : State, s.afterStopSample.dt = s.dt ∧
    s.ready = State.tickN (max s.dt.toNat s.st.toNat) s.afterStopSample)

/-- R22, R23: which instruction can change which general register. -/
def Obligations.RegistersChangeOnlyAsTheirWritersSay : Prop :=
  ∀ (i : Instr) (s t : State) (k : Reg), exec i s = .next t → t.getV k ≠ s.getV k →
    (∃ kk, i = .setImm k kk ∨ i = .addImm k kk ∨ i = .rand k kk) ∨
    (∃ y, i = .move k y ∨ i = .or k y ∨ i = .and k y ∨ i = .xor k y ∨ i = .addReg k y ∨
      i = .sub k y ∨ i = .subn k y) ∨
    i = .shr k ∨ i = .shl k ∨ i = .getDelay k ∨ i = .waitKey k ∨
    (∃ x : Reg, i = .loadRegs x ∧ k ≤ x) ∨
    (k = 15 ∧ ∃ x y n, i = .addReg x y ∨ i = .sub x y ∨ i = .subn x y ∨ i = .shr x ∨ i = .shl x ∨
      i = .draw x y n)

/-- R40: the execute phase emits `present` once for clear-screen and draw, with the framebuffer as it
then stands, `halted` once when it raises a fault, and nothing otherwise. -/
def Obligations.ExecuteEmitsOnlyTheListedEvents : Prop :=
  ∀ (i : Instr) (s t : State), exec i s = .next t →
    (t.run = s.run ∧ t.history = s.history ∧ i ≠ .clearScreen ∧ ∀ x y n, i ≠ .draw x y n) ∨
    (t.run = s.run ∧ t.history = .present t.fb :: s.history ∧
      (i = .clearScreen ∨ ∃ x y n, i = .draw x y n)) ∨
    ∃ c, t.run = .faulted c ∧ t.history = .halted (.faulted c) :: s.history

/-- R67: an instruction that is not one of the four that access memory neither reads nor writes it, so
it runs the same over any memory; a skip in particular does not look at the skipped word (R126). -/
def Obligations.OtherInstructionsDoNotReadMemory : Prop :=
  ∀ (i : Instr) (s t : State) (a : Nat) (b : Byte),
    (∀ x y n, i ≠ .draw x y n) → (∀ x, i ≠ .bcd x ∧ i ≠ .storeRegs x ∧ i ≠ .loadRegs x) →
    exec i s = .next t → exec i (s.writeByte a b) = .next (t.writeByte a b)

/-- R128, R247: a wait-key for which no sample ever shows a pressed key has no next state: it hangs. It is
the one instruction that can fail to complete, and that is the one case; every other instruction always
has a next state. The listed samples and the idle keypad are the model's input record (log entry 5). -/
def Obligations.OnlyAHeldWaitKeyHasNoNextState : Prop :=
  (∀ (x : Reg) (s : State), s.inputs.keypad = .idle → NoKeyListed s.inputs.keys →
    exec (.waitKey x) s = .fault .waitKeyHang) ∧
  ∀ (i : Instr) (s : State),
    (∃ t, exec i s = .next t) ∨
    (∃ x, i = .waitKey x) ∧ s.inputs.keypad = .idle ∧ NoKeyListed s.inputs.keys ∧
      exec i s = .fault .waitKeyHang

/-- R210, R216, R219: when a cycle ends faulted, the cause is the listed one, with the listed info, and
nothing but `RUN` and the event history has changed since the drain (D2, D3, D12, D22). -/
def Obligations.EveryFaultHasItsListedCause : Prop :=
  ∀ (s t : State) (c : Cause), s.run = .running → step s = .next t → t.run = .faulted c →
    s.inputs.stop ≠ some 0 ∧ FaultsWith s.ready t c ∧
    ((0xFFE < s.pc.toNat ∧
        c = .addressFetch (if s.pc.toNat ≤ 0xFFF then 0x1000 else s.pc.toNat) s.pc) ∨
      (s.fetches ∧ decodeWord s.fetchWord = .error (.unknownOpcode s.fetchWord) ∧
        c = .unknownOpcode s.fetchWord s.pc) ∨
      (∃ nnn, s.willRun (.call nnn) ∧ s.sp.val = 16 ∧ c = .stackOverflow s.pc) ∨
      (∃ x, (s.willRun (.skipKeyPressed x) ∨ s.willRun (.skipKeyNotPressed x)) ∧
        0x0F < (s.getV x).toNat ∧ c = .invalidKey (s.getV x) s.pc) ∨
      (∃ (i : Instr) (last : Nat), s.willRun i ∧ 0xFFF < s.i.toNat + last ∧
        ((∃ x y, i = .draw x y (last + 1)) ∨ (∃ x, i = .bcd x ∧ last = 2) ∨
          (∃ x : Reg, (i = .storeRegs x ∨ i = .loadRegs x) ∧ last = x.val)) ∧
        c = .addressData (max s.i.toNat 0x1000) s.pc))

/-! ### The cycle -/

/-- R120, R123, R124: when the word at `pc` decodes to `i`, one step is the execute phase of `i` on the
state the stop sample and the drain left, which differs from the first in the timers, the tick count,
the events and the inputs alone. -/
def Obligations.StepRunsTheDecodedInstruction : Prop :=
  ∀ (s : State) (i : Instr), s.run = .running → s.inputs.stop ≠ some 0 → s.pc.toNat ≤ 0xFFE →
    decode [s.readByte s.pc.toNat, s.readByte (s.pc.toNat + 1)] = .ok (i, []) →
    step s = exec i s.ready ∧
    AgreeOutside (fun p => p = .dt ∨ p = .st ∨ p = .ticks ∨ p = .history ∨ p = .inputs) s s.ready ∧
    s.ready.inputs = { s.inputs with stop := s.inputs.stop.map (fun n => n - 1) }

/-- R122, R223: the drain takes `max(DT, ST)` ticks, emits one audio trigger per unit of `ST` (D16),
and leaves both timers at 0. -/
def Obligations.DrainRunsBothTimersToZero : Prop :=
  ∀ s : State,
    s.drain.dt = 0 ∧ s.drain.st = 0 ∧
    s.drain.ticks = s.ticks + max s.dt.toNat s.st.toNat ∧
    s.drain.history = List.replicate s.st.toNat .audioTrigger ++ s.history ∧
    AgreeOutside (fun p => p = .dt ∨ p = .st ∨ p = .ticks ∨ p = .history) s s.drain

/-- R121: a stop sample that reads 1 ends the run; no other phase runs, so the drain does not either
(D15), and all other state keeps its value. -/
def Obligations.StopSampleEndsTheRun : Prop :=
  ∀ s : State, s.run = .running → s.inputs.stop = some 0 →
    ∃ t, step s = .next t ∧ t.run = .stopped ∧ t.history = .halted .stopped :: s.history ∧
      AgreeOutside (fun p => p = .run ∨ p = .history) s t

/-- R212 (D2): a fetch above 0xFFE raises AddressFault(fetch) with the first out-of-range address. -/
def Obligations.FetchOutsideMemoryFaults : Prop :=
  ∀ s : State, s.run = .running → s.inputs.stop ≠ some 0 → 0xFFE < s.pc.toNat →
    ∃ t, step s = .next t ∧
      FaultsWith s.ready t
        (.addressFetch (if s.pc.toNat ≤ 0xFFF then 0x1000 else s.pc.toNat) s.pc)

/-- R36, R221: STOPPED and FAULTED are absorbing: however many cycles, no state changes. -/
def Obligations.StoppedAndFaultedAreAbsorbing : Prop :=
  ∀ (s : State) (n : Nat), s.run ≠ .running → Sys2Proof.core.run n s = .next s

/-- R203, R245: in every cycle get-delay writes 0x00, whatever `DT` held before the drain. -/
def Obligations.GetDelayReadsZeroInEveryCycle : Prop :=
  ∀ (s : State) (x : Reg), s.willRun (.getDelay x) →
    ∃ t, step s = .next t ∧ t.getV x = 0 ∧ t.pc = s.pc + 2 ∧
      t.ticks = s.ticks + max s.dt.toNat s.st.toNat

/-- R205, R224: after set-sound the next cycle emits exactly `V[x]` audio triggers before its fetch
(D16). -/
def Obligations.SetSoundEmitsAsManyTriggersAsItsValue : Prop :=
  ∀ (s : State) (x : Reg), ∃ t, exec (.setSound x) s = .next t ∧
    t.ready.history = List.replicate (s.getV x).toNat .audioTrigger ++ s.history ∧ t.ready.st = 0

/-- R76, R246: bytes stored by store-regs are what the next fetch from them reads. -/
def Obligations.StoredBytesAreFetchedByTheNextCycle : Prop :=
  ∀ (s : State) (x k k' : Reg), k'.val = k.val + 1 → k' ≤ x → s.i.toNat + x.val ≤ 0xFFF →
    ∃ t, exec (.storeRegs x) s = .next t ∧
      (t.pc.toNat = s.dataAddr k.val → t.ready.fetchWord = wordOfBytes (s.getV k) (s.getV k'))

/-- The model's `withFetchWord` (log entry 7): the very next step runs exactly the word placed. -/
def Obligations.PlacedWordIsTheNextInstruction : Prop :=
  ∀ (s : State) (i : Instr), i.wellFormed = true →
    step (s.withFetchWord 16 (encode i).toNat)
      = exec i (s.withFetchWord 16 (encode i).toNat).ready

/-- R69, R70, R218, R240: the reset sequence puts the glyphs at FONT_BASE and the image at 0x200 and
changes nothing else; a missing image and one above 3584 bytes end it (D18). -/
def Obligations.BootLoadsGlyphsAndProgram : Prop :=
  ∀ font : Config.Font, font.wf = true →
    (∀ image : List Byte, image.length ≤ 3584 →
      ∃ s, boot font (some image) = .ok s ∧ s.memWf ∧
        (∀ (j : Nat) (h : j < image.length), s.readByte (0x200 + j) = image[j]) ∧
        (∀ (j : Nat) (h : j < 80), s.readByte (font.base + j) = font.glyphs[j]) ∧
        (∀ a, (a < font.base ∨ font.base + 80 ≤ a) → (a < 0x200 ∨ 0x200 + image.length ≤ a) →
          s.readByte a = 0) ∧
        s.font = font ∧
        AgreeOutside (fun p => p = .font ∨ ∃ a, p = .mem a) State.reset s) ∧
    (∀ image : List Byte, 3584 < image.length → boot font (some image) = .error .tooLong) ∧
    boot font none = .error .unreadable

/-! ### Control transfer -/

/-- R141. -/
def Obligations.JumpSetsThePc : Prop :=
  EncodedAs 0xF000 0x1000 (fun op => .jump (opNNN op)) ∧
  ∀ (nnn : Nat) (s : State), nnn < 0x1000 →
    ∃ t, exec (.jump nnn) s = .next t ∧ t.pc.toNat = nnn ∧ AgreeOutside (fun p => p = .pc) s t

/-- R142, R214: the return address is pushed and `pc` set; a full stack raises StackOverflow (D3). The
nibble values of the encoding are D23 (log entry 16). -/
def Obligations.CallPushesOrOverflows : Prop :=
  EncodedAs 0xF000 0x2000 (fun op => .call (opNNN op)) ∧
  ∀ (nnn : Nat) (s : State), nnn < 0x1000 →
    (∀ k : Fin 16, s.sp.val = k.val →
      ∃ t, exec (.call nnn) s = .next t ∧ t.getSlot k = s.pc + 2 ∧ t.sp.val = s.sp.val + 1 ∧
        t.pc.toNat = nnn ∧ AgreeOutside (fun p => p = .stack k ∨ p = .sp ∨ p = .pc) s t) ∧
    (s.sp.val = 16 → ∃ t, exec (.call nnn) s = .next t ∧ FaultsWith s t (.stackOverflow s.pc))

/-- R140, R217: the slot below the stack pointer, or slot 0 of an empty stack, is the next `pc`. The
nibble values of the encoding are D23 (log entry 16). -/
def Obligations.ReturnPopsThePc : Prop :=
  EncodedAs 0xF00F 0x000E (fun _ => .ret) ∧
  ∀ s : State, ∃ (t : State) (k : Fin 16), exec .ret s = .next t ∧ k.val = max (s.sp.val - 1) 0 ∧
    t.pc = s.getSlot k ∧ t.sp.val = k.val ∧ AgreeOutside (fun p => p = .pc ∨ p = .sp) s t

/-- R217: a return with `SP` already 0 takes slot 0, leaves `SP` at 0, makes no fault record and
leaves the engine running. -/
def Obligations.ReturnOnAnEmptyStackIsNoFault : Prop :=
  ∀ s : State, s.run = .running → s.sp.val = 0 →
    ∃ t, exec .ret s = .next t ∧ t.pc = s.getSlot 0 ∧ t.sp.val = 0 ∧ t.run = .running ∧
      AgreeOutside (fun p => p = .pc) s t

/-- R140(d), R142: a return after a call comes back behind the call with the stack pointer restored. -/
def Obligations.ReturnUndoesCall : Prop :=
  ∀ (nnn : Nat) (s : State) (k : Fin 16), s.sp.val = k.val →
    ∃ t u, exec (.call nnn) s = .next t ∧ exec .ret t = .next u ∧ u.pc = s.pc + 2 ∧
      AgreeOutside (fun p => p = .pc ∨ p = .stack k) s u

/-- R143: the sum of the address and `V[0]`, with no mask (D1). The nibble values of the encoding are
D23 (log entry 16). -/
def Obligations.JumpOffsetAddsVZeroUnmasked : Prop :=
  EncodedAs 0xF000 0xB000 (fun op => .jumpOffset (opNNN op)) ∧
  ∀ (nnn : Nat) (s : State), nnn < 0x1000 →
    ∃ t, exec (.jumpOffset nnn) s = .next t ∧ t.pc.toNat = nnn + (s.getV 0).toNat ∧
      AgreeOutside (fun p => p = .pc) s t

/-! ### Conditional skips -/

/-- R150. -/
def Obligations.SkipEqImmSkipsOnEqual : Prop :=
  EncodedAs 0xF000 0x3000 (fun op => .skipEqImm (opX op) (opKK op)) ∧
  ∀ (x : Reg) (kk : Byte) (s : State), ∃ t, exec (.skipEqImm x kk) s = .next t ∧
    t.pc = s.pc + (if (s.getV x).toNat = kk.toNat then 4 else 2) ∧
    AgreeOutside (fun p => p = .pc) s t

/-- R151, R152, R153: the other comparisons of register values; the last nibble of the word is ignored
where two registers are compared. The nibble values of the encoding are D23 (log entry 16). -/
def Obligations.OtherSkipsCompareTheirOperands : Prop :=
  EncodedAs 0xF000 0x4000 (fun op => .skipNeImm (opX op) (opKK op)) ∧
  EncodedAs 0xF000 0x5000 (fun op => .skipEqReg (opX op) (opY op)) ∧
  EncodedAs 0xF000 0x9000 (fun op => .skipNeReg (opX op) (opY op)) ∧
  ∀ (x y : Reg) (kk : Byte) (s : State),
    (∃ t, exec (.skipNeImm x kk) s = .next t ∧
      t.pc = s.pc + (if (s.getV x).toNat = kk.toNat then 2 else 4) ∧
      AgreeOutside (fun p => p = .pc) s t) ∧
    (∃ t, exec (.skipEqReg x y) s = .next t ∧
      t.pc = s.pc + (if (s.getV x).toNat = (s.getV y).toNat then 4 else 2) ∧
      AgreeOutside (fun p => p = .pc) s t) ∧
    (∃ t, exec (.skipNeReg x y) s = .next t ∧
      t.pc = s.pc + (if (s.getV x).toNat = (s.getV y).toNat then 2 else 4) ∧
      AgreeOutside (fun p => p = .pc) s t)

/-! ### Register load, arithmetic, logic, shift, random -/

/-- R161, R163. The nibble values of the encoding are D23 (log entry 16). -/
def Obligations.SetImmAndMoveLoadARegister : Prop :=
  EncodedAs 0xF000 0x6000 (fun op => .setImm (opX op) (opKK op)) ∧
  EncodedAs 0xF00F 0x8000 (fun op => .move (opX op) (opY op)) ∧
  ∀ (x y : Reg) (kk : Byte) (s : State),
    (∃ t, exec (.setImm x kk) s = .next t ∧ t.getV x = kk ∧ t.pc = s.pc + 2 ∧
      AgreeOutside (fun p => p = .v x ∨ p = .pc) s t) ∧
    (∃ t, exec (.move x y) s = .next t ∧ t.getV x = s.getV y ∧ t.pc = s.pc + 2 ∧
      AgreeOutside (fun p => p = .v x ∨ p = .pc) s t)

/-- R162: the sum wraps at 256 and VF is not written. The nibble values of the encoding are D23 (log
entry 16). -/
def Obligations.AddImmWrapsWithoutAFlag : Prop :=
  EncodedAs 0xF000 0x7000 (fun op => .addImm (opX op) (opKK op)) ∧
  ∀ (x : Reg) (kk : Byte) (s : State), ∃ t, exec (.addImm x kk) s = .next t ∧
    (t.getV x).toNat = ((s.getV x).toNat + kk.toNat) % 256 ∧ t.pc = s.pc + 2 ∧
    AgreeOutside (fun p => p = .v x ∨ p = .pc) s t

/-- R164, R165, R166: bit by bit, and VF is left unchanged. The nibble values of the encoding are D23
(log entry 16). -/
def Obligations.LogicInstructionsCombineBits : Prop :=
  EncodedAs 0xF00F 0x8001 (fun op => .or (opX op) (opY op)) ∧
  EncodedAs 0xF00F 0x8002 (fun op => .and (opX op) (opY op)) ∧
  EncodedAs 0xF00F 0x8003 (fun op => .xor (opX op) (opY op)) ∧
  ∀ (x y : Reg) (s : State),
    (∃ t, exec (.or x y) s = .next t ∧ t.pc = s.pc + 2 ∧
      (∀ k, (t.getV x).getLsbD k = ((s.getV x).getLsbD k || (s.getV y).getLsbD k)) ∧
      AgreeOutside (fun p => p = .v x ∨ p = .pc) s t) ∧
    (∃ t, exec (.and x y) s = .next t ∧ t.pc = s.pc + 2 ∧
      (∀ k, (t.getV x).getLsbD k = ((s.getV x).getLsbD k && (s.getV y).getLsbD k)) ∧
      AgreeOutside (fun p => p = .v x ∨ p = .pc) s t) ∧
    (∃ t, exec (.xor x y) s = .next t ∧ t.pc = s.pc + 2 ∧
      (∀ k, (t.getV x).getLsbD k = ((s.getV x).getLsbD k ^^ (s.getV y).getLsbD k)) ∧
      AgreeOutside (fun p => p = .v x ∨ p = .pc) s t)

/-- R167: sum modulo 256 and carry; with `x = 15` the result stays in VF (R160, D9). -/
def Obligations.AddRegGivesSumAndCarry : Prop :=
  EncodedAs 0xF00F 0x8004 (fun op => .addReg (opX op) (opY op)) ∧
  ∀ (x y : Reg) (s : State), ∃ t, exec (.addReg x y) s = .next t ∧
    (t.getV x).toNat = ((s.getV x).toNat + (s.getV y).toNat) % 256 ∧
    (x ≠ 15 → t.getV 15 = if 256 ≤ (s.getV x).toNat + (s.getV y).toNat then 1 else 0) ∧
    t.pc = s.pc + 2 ∧ AgreeOutside (fun p => p = .v x ∨ p = .v 15 ∨ p = .pc) s t

/-- R168, R170: difference modulo 256 and the strict comparison; with `x = 15` the result stays in VF
(R160, D9). The nibble values of the encoding are D23 (log entry 16) but for 0x8005. -/
def Obligations.SubtractionsGiveDifferenceAndStrictFlag : Prop :=
  EncodedAs 0xF00F 0x8005 (fun op => .sub (opX op) (opY op)) ∧
  EncodedAs 0xF00F 0x8007 (fun op => .subn (opX op) (opY op)) ∧
  ∀ (x y : Reg) (s : State),
    (∃ t, exec (.sub x y) s = .next t ∧
      ((t.getV x).toNat : Int) = (((s.getV x).toNat : Int) - (s.getV y).toNat) % 256 ∧
      (x ≠ 15 → t.getV 15 = if (s.getV y).toNat < (s.getV x).toNat then 1 else 0) ∧
      t.pc = s.pc + 2 ∧ AgreeOutside (fun p => p = .v x ∨ p = .v 15 ∨ p = .pc) s t) ∧
    (∃ t, exec (.subn x y) s = .next t ∧
      ((t.getV x).toNat : Int) = (((s.getV y).toNat : Int) - (s.getV x).toNat) % 256 ∧
      (x ≠ 15 → t.getV 15 = if (s.getV x).toNat < (s.getV y).toNat then 1 else 0) ∧
      t.pc = s.pc + 2 ∧ AgreeOutside (fun p => p = .v x ∨ p = .v 15 ∨ p = .pc) s t)

/-- R169, R171: one position, the bit shifted out in VF, `V[y]` neither read nor written; with `x =
15` the result stays in VF (R160, D9). The nibble values of the encoding are D23 (log entry 16). -/
def Obligations.ShiftsGiveResultAndBitShiftedOut : Prop :=
  EncodedAs 0xF00F 0x8006 (fun op => .shr (opX op)) ∧
  EncodedAs 0xF00F 0x800E (fun op => .shl (opX op)) ∧
  ∀ (x : Reg) (s : State),
    (∃ t, exec (.shr x) s = .next t ∧ (t.getV x).toNat = (s.getV x).toNat / 2 ∧
      (x ≠ 15 → (t.getV 15).toNat = (s.getV x).toNat % 2) ∧
      t.pc = s.pc + 2 ∧ AgreeOutside (fun p => p = .v x ∨ p = .v 15 ∨ p = .pc) s t) ∧
    (∃ t, exec (.shl x) s = .next t ∧ (t.getV x).toNat = 2 * (s.getV x).toNat % 256 ∧
      (x ≠ 15 → (t.getV 15).toNat = (s.getV x).toNat / 128) ∧
      t.pc = s.pc + 2 ∧ AgreeOutside (fun p => p = .v x ∨ p = .v 15 ∨ p = .pc) s t)

/-- R172 (D14): one sample of `rand` and the mask; a listed sample is used up, and every result has no
bit outside the mask. The nibble values of the encoding are D23 (log entry 16). -/
def Obligations.RandMasksOneSample : Prop :=
  EncodedAs 0xF000 0xC000 (fun op => .rand (opX op) (opKK op)) ∧
  ∀ (x : Reg) (kk : Byte) (s : State), ∃ t, exec (.rand x kk) s = .next t ∧
    t.getV x = s.randSample &&& kk ∧ t.getV x &&& ~~~kk = 0 ∧ t.pc = s.pc + 2 ∧
    (∀ r rest, s.inputs.rands = r :: rest →
      s.randSample = r ∧ t.inputs = { s.inputs with rands := rest }) ∧
    (s.inputs.rands = [] → t.inputs = { s.inputs with draws := s.inputs.draws + 1 }) ∧
    AgreeOutside (fun p => p = .v x ∨ p = .pc ∨ p = .inputs) s t

/-! ### Index and memory -/

/-- R180: the address operand. The nibble values of the encoding are D23 (log entry 16). -/
def Obligations.SetIndexLoadsTheAddress : Prop :=
  EncodedAs 0xF000 0xA000 (fun op => .setIndex (opNNN op)) ∧
  ∀ (nnn : Nat) (s : State), nnn < 0x1000 → ∃ t, exec (.setIndex nnn) s = .next t ∧
    t.i.toNat = nnn ∧ t.pc = s.pc + 2 ∧ AgreeOutside (fun p => p = .i ∨ p = .pc) s t

/-- R182: the glyph address of the whole 8-bit value; memory is neither written nor read. -/
def Obligations.SpriteAddrLoadsTheGlyphAddress : Prop :=
  EncodedAs 0xF0FF 0xF029 (fun op => .spriteAddr (opX op)) ∧
  ∀ (x : Reg) (s : State), s.font.wf = true → ∃ t, exec (.spriteAddr x) s = .next t ∧
    t.i.toNat = s.font.base + 5 * (s.getV x).toNat ∧ t.pc = s.pc + 2 ∧
    AgreeOutside (fun p => p = .i ∨ p = .pc) s t ∧
    ∀ (a : Nat) (b : Byte), exec (.spriteAddr x) (s.writeByte a b) = .next (t.writeByte a b)

/-- R181: the sum wraps at 65536 (D5) and VF is not changed. The nibble values of the encoding are D23
(log entry 16). -/
def Obligations.AddIndexWrapsAtSixteenBits : Prop :=
  EncodedAs 0xF0FF 0xF01E (fun op => .addIndex (opX op)) ∧
  ∀ (x : Reg) (s : State), ∃ t, exec (.addIndex x) s = .next t ∧
    t.i.toNat = (s.i.toNat + (s.getV x).toNat) % 65536 ∧ t.pc = s.pc + 2 ∧
    AgreeOutside (fun p => p = .i ∨ p = .pc) s t

/-- R183: the three digits, or AddressFault(data) and nothing written (D2, D22). -/
def Obligations.BcdStoresThreeDigitsOrFaults : Prop :=
  EncodedAs 0xF0FF 0xF033 (fun op => .bcd (opX op)) ∧
  ∀ (x : Reg) (s : State),
    (s.dataAddr 2 ≤ 0xFFF → ∃ t, exec (.bcd x) s = .next t ∧
      (t.readByte (s.dataAddr 0)).toNat = (s.getV x).toNat / 100 ∧
      (t.readByte (s.dataAddr 1)).toNat = (s.getV x).toNat / 10 % 10 ∧
      (t.readByte (s.dataAddr 2)).toNat = (s.getV x).toNat % 10 ∧ t.pc = s.pc + 2 ∧
      AgreeOutside (fun p => (∃ k, k < 3 ∧ p = .mem (s.dataAddr k)) ∨ p = .pc) s t) ∧
    (0xFFF < s.dataAddr 2 → ∃ t, exec (.bcd x) s = .next t ∧
      FaultsWith s t (.addressData (max s.i.toNat 0x1000) s.pc))

/-- R184: `V[k]` at `I + k` for `k = 0..x`, or AddressFault(data) and nothing written (D2, D22); `I`
keeps its value (D21). The nibble values of the encoding are D23 (log entry 16). -/
def Obligations.StoreRegsStoresTheFirstRegistersOrFaults : Prop :=
  EncodedAs 0xF0FF 0xF055 (fun op => .storeRegs (opX op)) ∧
  ∀ (x : Reg) (s : State),
    (s.dataAddr x.val ≤ 0xFFF → ∃ t, exec (.storeRegs x) s = .next t ∧
      (∀ k : Reg, k ≤ x → t.readByte (s.dataAddr k.val) = s.getV k) ∧ t.pc = s.pc + 2 ∧
      AgreeOutside (fun p => (∃ k : Reg, k ≤ x ∧ p = .mem (s.dataAddr k.val)) ∨ p = .pc) s t) ∧
    (0xFFF < s.dataAddr x.val → ∃ t, exec (.storeRegs x) s = .next t ∧
      FaultsWith s t (.addressData (max s.i.toNat 0x1000) s.pc))

/-- R185: `V[k]` from `I + k` for `k = 0..x`, or AddressFault(data) and nothing written (D2, D22); `I`
keeps its value (D21). The nibble values of the encoding are D23 (log entry 16). -/
def Obligations.LoadRegsLoadsTheFirstRegistersOrFaults : Prop :=
  EncodedAs 0xF0FF 0xF065 (fun op => .loadRegs (opX op)) ∧
  ∀ (x : Reg) (s : State),
    (s.dataAddr x.val ≤ 0xFFF → ∃ t, exec (.loadRegs x) s = .next t ∧
      (∀ k : Reg, k ≤ x → t.getV k = s.readByte (s.dataAddr k.val)) ∧ t.pc = s.pc + 2 ∧
      AgreeOutside (fun p => (∃ k : Reg, k ≤ x ∧ p = .v k) ∨ p = .pc) s t) ∧
    (0xFFF < s.dataAddr x.val → ∃ t, exec (.loadRegs x) s = .next t ∧
      FaultsWith s t (.addressData (max s.i.toNat 0x1000) s.pc))

/-- R184, R185: what store-regs stores, load-regs brings back, whatever the registers hold between. -/
def Obligations.LoadRegsBringsBackWhatStoreRegsStored : Prop :=
  ∀ (x : Reg) (s : State) (v : Vector Byte 16), s.dataAddr x.val ≤ 0xFFF →
    ∃ t u, exec (.storeRegs x) s = .next t ∧ exec (.loadRegs x) { t with v := v } = .next u ∧
      (∀ k : Reg, k ≤ x → u.getV k = s.getV k) ∧ ∀ k : Reg, x < k → u.getV k = v[k.val]

/-! ### Framebuffer -/

/-- R191: all pixels off and one `present`, also when the framebuffer was clear; every word with last
nibble 0 in group 0. The nibble values of the encoding are D23 (log entry 16). -/
def Obligations.ClearScreenBlanksAndPresents : Prop :=
  EncodedAs 0xF00F 0x0000 (fun _ => .clearScreen) ∧
  ∀ s : State, ∃ t, exec .clearScreen s = .next t ∧
    (∀ (y : Fin 32) (x : Fin 64), pixel t.fb y x = false) ∧
    t.history = .present t.fb :: s.history ∧ t.pc = s.pc + 2 ∧
    AgreeOutside (fun p => p = .fb ∨ p = .history ∨ p = .pc) s t

/-- R192: each of the `8 n` target pixels is XORed with its sprite bit, every other pixel keeps its
value, VF is 1 iff a pixel went from on to off and else 0, one `present`; a row above 0xFFF raises
AddressFault(data) before any write (D2, D10, D11, D22). The nibble values of the encoding are D23
(log entry 16). -/
def Obligations.DrawXorsTheSpriteAndReportsCollision : Prop :=
  EncodedAs 0xF000 0xD000 (fun op => .draw (opX op) (opY op) (opN op)) ∧
  ∀ (x y : Reg) (n : Nat) (s : State), n < 16 →
    ((n = 0 ∨ s.i.toNat + n - 1 ≤ 0xFFF) → ∃ t, exec (.draw x y n) s = .next t ∧
      (∀ r col, r < n → col < 8 →
        pixel t.fb (Fin.ofNat 32 ((s.getV y).toNat + r)) (Fin.ofNat 64 ((s.getV x).toNat + col)) =
          (pixel s.fb (Fin.ofNat 32 ((s.getV y).toNat + r))
              (Fin.ofNat 64 ((s.getV x).toNat + col)) ^^
            (s.readByte (s.dataAddr r)).getLsbD (7 - col))) ∧
      (∀ (py : Fin 32) (px : Fin 64),
        (∀ r col, r < n → col < 8 → py = Fin.ofNat 32 ((s.getV y).toNat + r) →
          px ≠ Fin.ofNat 64 ((s.getV x).toNat + col)) →
        pixel t.fb py px = pixel s.fb py px) ∧
      (t.getV 15 = 0 ∨ t.getV 15 = 1) ∧
      (t.getV 15 = 1 ↔ ∃ r col, r < n ∧ col < 8 ∧
        (s.readByte (s.dataAddr r)).getLsbD (7 - col) = true ∧
        pixel s.fb (Fin.ofNat 32 ((s.getV y).toNat + r))
          (Fin.ofNat 64 ((s.getV x).toNat + col)) = true) ∧
      t.history = .present t.fb :: s.history ∧ t.pc = s.pc + 2 ∧
      AgreeOutside (fun p => p = .fb ∨ p = .v 15 ∨ p = .history ∨ p = .pc) s t) ∧
    (0 < n → 0xFFF < s.i.toNat + n - 1 → ∃ t, exec (.draw x y n) s = .next t ∧
      FaultsWith s t (.addressData (max s.i.toNat 0x1000) s.pc))

/-- R193: the same draw twice restores the framebuffer exactly, and the second VF is 1 iff a sprite bit
1 fell on a pixel that was off before the first draw (conflict C6; D10, D11). -/
def Obligations.DoubleDrawRestoresTheFramebuffer : Prop :=
  ∀ (x y : Reg) (n : Nat) (s : State), n < 16 → x ≠ 15 → y ≠ 15 →
    (n = 0 ∨ s.i.toNat + n - 1 ≤ 0xFFF) →
    ∃ t u, exec (.draw x y n) s = .next t ∧ exec (.draw x y n) t = .next u ∧ u.fb = s.fb ∧
      (u.getV 15 = 1 ↔ ∃ r col, r < n ∧ col < 8 ∧
        (s.readByte (s.dataAddr r)).getLsbD (7 - col) = true ∧
        pixel s.fb (Fin.ofNat 32 ((s.getV y).toNat + r))
          (Fin.ofNat 64 ((s.getV x).toNat + col)) = false)

/-! ### Keypad and timers -/

/-- R200, R201: the sampled level of the named key decides; a value above 0x0F raises InvalidKey and
takes no sample (D12). A listed sample is the one taken, and an idle keypad shows no key pressed (log
entry 5). The nibble values of the encoding are D23 (log entry 16). -/
def Obligations.KeySkipsFollowTheSampledKey : Prop :=
  EncodedAs 0xF00F 0xE00E (fun op => .skipKeyPressed (opX op)) ∧
  EncodedAs 0xF00F 0xE001 (fun op => .skipKeyNotPressed (opX op)) ∧
  ∀ (x : Reg) (s : State),
    (∀ k rest, s.inputs.keys = k :: rest →
      s.keySample = k.keys ∧ s.afterKeys.inputs = { s.inputs with keys := rest }) ∧
    (s.inputs.keys = [] → s.inputs.keypad = .idle →
      s.keySample = 0 ∧ s.afterKeys.inputs = s.inputs) ∧
    ((s.getV x).toNat ≤ 0x0F →
      (∃ t, exec (.skipKeyPressed x) s = .next t ∧
        t.pc = s.pc + (if s.keySample.getLsbD (s.getV x).toNat then 4 else 2) ∧
        t.inputs = s.afterKeys.inputs ∧ AgreeOutside (fun p => p = .pc ∨ p = .inputs) s t) ∧
      (∃ t, exec (.skipKeyNotPressed x) s = .next t ∧
        t.pc = s.pc + (if s.keySample.getLsbD (s.getV x).toNat then 2 else 4) ∧
        t.inputs = s.afterKeys.inputs ∧ AgreeOutside (fun p => p = .pc ∨ p = .inputs) s t)) ∧
    (0x0F < (s.getV x).toNat →
      (∃ t, exec (.skipKeyPressed x) s = .next t ∧
        FaultsWith s t (.invalidKey (s.getV x) s.pc)) ∧
      (∃ t, exec (.skipKeyNotPressed x) s = .next t ∧
        FaultsWith s t (.invalidKey (s.getV x) s.pc)))

/-- R202 (D13): samples without a pressed key are passed over; the first one with a pressed key lifts
the hold and one of its pressed keys is written. When the listed samples show none, a live keypad (log
entry 5) still answers with a key. The nibble values of the encoding are D23 (log entry 16). -/
def Obligations.WaitKeyWritesAPressedKey : Prop :=
  EncodedAs 0xF0FF 0xF00A (fun op => .waitKey (opX op)) ∧
  ∀ (x : Reg) (s : State),
    (∀ (before : List Config.KeySample) (k : Config.KeySample) (rest : List Config.KeySample),
      s.inputs.keys = before ++ k :: rest → NoKeyListed before → k.keys ≠ 0 →
      ∃ (t : State) (key : Key), exec (.waitKey x) s = .next t ∧ k.keys.getLsbD key.val = true ∧
        (t.getV x).toNat = key.val ∧ t.pc = s.pc + 2 ∧
        t.inputs = { s.inputs with keys := rest } ∧
        AgreeOutside (fun p => p = .v x ∨ p = .pc ∨ p = .inputs) s t) ∧
    (NoKeyListed s.inputs.keys → s.inputs.keypad = .live →
      ∃ (t : State) (key : Key), exec (.waitKey x) s = .next t ∧ (t.getV x).toNat = key.val ∧
        t.pc = s.pc + 2 ∧
        t.inputs = { s.inputs with keys := [], draws := s.inputs.draws + 1 } ∧
        AgreeOutside (fun p => p = .v x ∨ p = .pc ∨ p = .inputs) s t)

/-- R203, R204, R205: reads and writes of the timer registers. The nibble values of the encoding are
D23 (log entry 16). -/
def Obligations.TimerInstructionsMoveTheTimers : Prop :=
  EncodedAs 0xF0FF 0xF007 (fun op => .getDelay (opX op)) ∧
  EncodedAs 0xF0FF 0xF015 (fun op => .setDelay (opX op)) ∧
  EncodedAs 0xF0FF 0xF018 (fun op => .setSound (opX op)) ∧
  ∀ (x : Reg) (s : State),
    (∃ t, exec (.getDelay x) s = .next t ∧ t.getV x = s.dt ∧ t.pc = s.pc + 2 ∧
      AgreeOutside (fun p => p = .v x ∨ p = .pc) s t) ∧
    (∃ t, exec (.setDelay x) s = .next t ∧ t.dt = s.getV x ∧ t.pc = s.pc + 2 ∧
      AgreeOutside (fun p => p = .dt ∨ p = .pc) s t) ∧
    (∃ t, exec (.setSound x) s = .next t ∧ t.st = s.getV x ∧ t.pc = s.pc + 2 ∧
      AgreeOutside (fun p => p = .st ∨ p = .pc) s t)
end

