-- ==== Sys2Proof/Laws/Decode.lean ====
section
/-! SUPPORT. The fields of a word, the masks of the opcode map, and what the encoder's formats hold. -/

namespace Sys2Proof

theorem and_F000 (op : Word) : op &&& 0xF000#16 = BitVec.ofNat 16 (bits op 15 12 * 0x1000) := by
  have h : op &&& 0xF000#16 = (op >>> 12) <<< 12 := by
    ext i hi
    have : i < 16 := hi
    interval_cases i <;> simp
  rw [h]
  apply BitVec.eq_of_toNat_eq
  have := op.isLt
  simp [bits, Nat.shiftRight_eq_div_pow, Nat.shiftLeft_eq]
  omega

theorem and_lowMask (op : Word) (k : Nat) (hk : k ≤ 16) :
    op &&& BitVec.ofNat 16 (2 ^ k - 1) = BitVec.ofNat 16 (op.toNat % 2 ^ k) := by
  apply BitVec.eq_of_toNat_eq
  have hp : 2 ^ k ≤ 2 ^ 16 := Nat.pow_le_pow_right (by omega) hk
  have hm := Nat.mod_lt op.toNat (Nat.two_pow_pos k)
  rw [BitVec.toNat_and, BitVec.toNat_ofNat, BitVec.toNat_ofNat,
    Nat.mod_eq_of_lt (by omega : 2 ^ k - 1 < 2 ^ 16), Nat.and_two_pow_sub_one_eq_mod,
    Nat.mod_eq_of_lt (by omega : op.toNat % 2 ^ k < 2 ^ 16)]

/-- The mask 0xF000 keeps the group nibble. -/
theorem toNat_and_F000 (op : Word) : (op &&& 0xF000#16).toNat = bits op 15 12 * 0x1000 := by
  have := op.isLt
  rw [and_F000, BitVec.toNat_ofNat]
  simp only [bits]
  omega

/-- A high nibble and low bits below it add up. -/
theorem toNat_nibble_or (op : Word) (k : Nat) (hk : k ≤ 12) :
    ((op &&& 0xF000#16) ||| (op &&& BitVec.ofNat 16 (2 ^ k - 1))).toNat
      = bits op 15 12 * 0x1000 + op.toNat % 2 ^ k := by
  have hp : 2 ^ k ≤ 2 ^ 12 := Nat.pow_le_pow_right (by omega) hk
  have hm := Nat.mod_lt op.toNat (Nat.two_pow_pos k)
  rw [BitVec.toNat_or, toNat_and_F000, and_lowMask op k (by omega), BitVec.toNat_ofNat,
    Nat.mod_eq_of_lt (by omega : op.toNat % 2 ^ k < 2 ^ 16),
    show bits op 15 12 * 0x1000 = bits op 15 12 <<< 12 by rw [Nat.shiftLeft_eq],
    ← Nat.shiftLeft_add_eq_or_of_lt (by omega : op.toNat % 2 ^ k < 2 ^ 12)]

/-- The mask 0xF00F keeps the group nibble and the last nibble. -/
theorem toNat_and_F00F (op : Word) :
    (op &&& 0xF00F#16).toNat = bits op 15 12 * 0x1000 + bits op 3 0 := by
  have h := toNat_nibble_or op 4 (by omega)
  rw [show op &&& 0xF00F#16 = (op &&& 0xF000#16) ||| (op &&& BitVec.ofNat 16 (2 ^ 4 - 1)) from
    (BitVec.and_or_distrib_left (x := op) (y := 0xF000#16) (z := 0xF#16)), h]
  simp only [bits]
  omega

/-- The mask 0xF0FF keeps the group nibble and the low byte. -/
theorem toNat_and_F0FF (op : Word) :
    (op &&& 0xF0FF#16).toNat = bits op 15 12 * 0x1000 + bits op 7 0 := by
  have h := toNat_nibble_or op 8 (by omega)
  rw [show op &&& 0xF0FF#16 = (op &&& 0xF000#16) ||| (op &&& BitVec.ofNat 16 (2 ^ 8 - 1)) from
    (BitVec.and_or_distrib_left (x := op) (y := 0xF000#16) (z := 0xFF#16)), h]
  simp only [bits]
  omega

theorem bits_15_12_lt (op : Word) : bits op 15 12 < 16 := Nat.mod_lt _ (by decide)

theorem bits_3_0_lt (op : Word) : bits op 3 0 < 16 := Nat.mod_lt _ (by decide)

theorem bits_7_0_lt (op : Word) : bits op 7 0 < 256 := Nat.mod_lt _ (by decide)

/-- Selecting by the mask 0xF000 is selecting by the group (R93). -/
theorem selects_F000 (op : Word) (g : Nat) (hg : g < 16) :
    op &&& 0xF000#16 = BitVec.ofNat 16 (g * 0x1000) ↔ opGroup op = g := by
  rw [← BitVec.toNat_inj, toNat_and_F000, BitVec.toNat_ofNat, opGroup]
  have := bits_15_12_lt op
  omega

/-- Selecting by the mask 0xF00F is selecting by the group and the last nibble (R93). -/
theorem selects_F00F (op : Word) (g n : Nat) (hg : g < 16) (hn : n < 16) :
    op &&& 0xF00F#16 = BitVec.ofNat 16 (g * 0x1000 + n) ↔ opGroup op = g ∧ opN op = n := by
  rw [← BitVec.toNat_inj, toNat_and_F00F, BitVec.toNat_ofNat, opGroup, opN]
  have := bits_15_12_lt op
  have := bits_3_0_lt op
  omega

/-- Selecting by the mask 0xF0FF is selecting by the group and the low byte (R93). -/
theorem selects_F0FF (op : Word) (g n : Nat) (hg : g < 16) (hn : n < 256) :
    op &&& 0xF0FF#16 = BitVec.ofNat 16 (g * 0x1000 + n) ↔ opGroup op = g ∧ bits op 7 0 = n := by
  rw [← BitVec.toNat_inj, toNat_and_F0FF, BitVec.toNat_ofNat, opGroup]
  have := bits_15_12_lt op
  have := bits_7_0_lt op
  omega

/-- The value of the fetched word (R61). -/
theorem toNat_wordOfBytes (b1 b0 : Byte) :
    (wordOfBytes b1 b0).toNat = b1.toNat * 0x100 + b0.toNat := by
  have := b1.isLt
  have := b0.isLt
  rw [wordOfBytes, BitVec.toNat_append, ← Nat.shiftLeft_add_eq_or_of_lt b0.isLt, Nat.shiftLeft_eq]

/-- The bytes of a word put together give the word (R61). -/
theorem wordOfBytes_bits (op : Word) :
    wordOfBytes (BitVec.ofNat 8 (bits op 15 8)) (BitVec.ofNat 8 (bits op 7 0)) = op := by
  apply BitVec.eq_of_toNat_eq
  have := op.isLt
  rw [toNat_wordOfBytes, BitVec.toNat_ofNat, BitVec.toNat_ofNat]
  simp only [bits]
  omega

theorem decode_bytesOfWord (op : Word) (rest : List Byte) :
    decode (bytesOfWord op ++ rest) = (decodeWord op).map (fun i => (i, rest)) := by
  simp only [bytesOfWord, List.cons_append, List.nil_append, decode, wordOfBytes_bits]
  cases decodeWord op <;> rfl

theorem toNat_formatA (g nnn : Nat) (hg : g < 16) (h : nnn < 0x1000) :
    (formatA g nnn).toNat = g * 0x1000 + nnn := by
  rw [formatA, BitVec.toNat_ofNat]; omega

theorem toNat_formatXK (g : Nat) (x : Reg) (kk : Byte) (hg : g < 16) :
    (formatXK g x kk).toNat = g * 0x1000 + x.val * 0x100 + kk.toNat := by
  have := x.isLt
  have := kk.isLt
  rw [formatXK, BitVec.toNat_ofNat]; omega

theorem toNat_formatXYN (g : Nat) (x y : Reg) (n : Nat) (hg : g < 16) (hn : n < 16) :
    (formatXYN g x y n).toNat = g * 0x1000 + x.val * 0x100 + y.val * 0x10 + n := by
  have := x.isLt
  have := y.isLt
  rw [formatXYN, BitVec.toNat_ofNat]; omega

theorem toNat_formatX (g : Nat) (x : Reg) (low : Nat) (hg : g < 16) (hl : low < 0x100) :
    (formatX g x low).toNat = g * 0x1000 + x.val * 0x100 + low := by
  have := x.isLt
  rw [formatX, BitVec.toNat_ofNat]; omega

/-! ### The fields of the formats -/

theorem opGroup_formatA (g nnn : Nat) (hg : g < 16) (h : nnn < 0x1000) :
    opGroup (formatA g nnn) = g := by
  simp only [opGroup, bits, toNat_formatA g nnn hg h]
  omega

theorem opNNN_formatA (g nnn : Nat) (hg : g < 16) (h : nnn < 0x1000) :
    opNNN (formatA g nnn) = nnn := by
  simp only [opNNN, bits, toNat_formatA g nnn hg h]
  omega

theorem opGroup_formatXK (g : Nat) (x : Reg) (kk : Byte) (hg : g < 16) :
    opGroup (formatXK g x kk) = g := by
  have := x.isLt
  have := kk.isLt
  simp only [opGroup, bits, toNat_formatXK g x kk hg]
  omega

theorem opX_formatXK (g : Nat) (x : Reg) (kk : Byte) (hg : g < 16) :
    opX (formatXK g x kk) = x := by
  have := x.isLt
  have := kk.isLt
  apply Fin.ext
  simp only [opX, bits, toNat_formatXK g x kk hg, Fin.ofNat]
  omega

theorem opKK_formatXK (g : Nat) (x : Reg) (kk : Byte) (hg : g < 16) :
    opKK (formatXK g x kk) = kk := by
  have := x.isLt
  have := kk.isLt
  apply BitVec.eq_of_toNat_eq
  simp only [opKK, bits, toNat_formatXK g x kk hg, BitVec.toNat_ofNat]
  omega

theorem opGroup_formatXYN (g : Nat) (x y : Reg) (n : Nat) (hg : g < 16) (hn : n < 16) :
    opGroup (formatXYN g x y n) = g := by
  have := x.isLt
  have := y.isLt
  simp only [opGroup, bits, toNat_formatXYN g x y n hg hn]
  omega

theorem opX_formatXYN (g : Nat) (x y : Reg) (n : Nat) (hg : g < 16) (hn : n < 16) :
    opX (formatXYN g x y n) = x := by
  have := x.isLt
  have := y.isLt
  apply Fin.ext
  simp only [opX, bits, toNat_formatXYN g x y n hg hn, Fin.ofNat]
  omega

theorem opY_formatXYN (g : Nat) (x y : Reg) (n : Nat) (hg : g < 16) (hn : n < 16) :
    opY (formatXYN g x y n) = y := by
  have := x.isLt
  have := y.isLt
  apply Fin.ext
  simp only [opY, bits, toNat_formatXYN g x y n hg hn, Fin.ofNat]
  omega

theorem opN_formatXYN (g : Nat) (x y : Reg) (n : Nat) (hg : g < 16) (hn : n < 16) :
    opN (formatXYN g x y n) = n := by
  have := x.isLt
  have := y.isLt
  simp only [opN, bits, toNat_formatXYN g x y n hg hn]
  omega

theorem opGroup_formatX (g : Nat) (x : Reg) (low : Nat) (hg : g < 16) (hl : low < 0x100) :
    opGroup (formatX g x low) = g := by
  have := x.isLt
  simp only [opGroup, bits, toNat_formatX g x low hg hl]
  omega

theorem opX_formatX (g : Nat) (x : Reg) (low : Nat) (hg : g < 16) (hl : low < 0x100) :
    opX (formatX g x low) = x := by
  have := x.isLt
  apply Fin.ext
  simp only [opX, bits, toNat_formatX g x low hg hl, Fin.ofNat]
  omega

theorem opN_formatX (g : Nat) (x : Reg) (low : Nat) (hg : g < 16) (hl : low < 0x100) :
    opN (formatX g x low) = low % 16 := by
  have := x.isLt
  simp only [opN, bits, toNat_formatX g x low hg hl]
  omega

theorem low_formatX (g : Nat) (x : Reg) (low : Nat) (hg : g < 16) (hl : low < 0x100) :
    bits (formatX g x low) 7 0 = low := by
  have := x.isLt
  simp only [bits, toNat_formatX g x low hg hl]
  omega

end Sys2Proof
end

