-- ==== Sys2Proof/Laws/State.lean ====
section
/-! SUPPORT. One lemma per field per update of the state, and per accessor per update. -/

namespace Sys2Proof.Machine

/-! ### `setV` -/

@[simp] theorem State.setV_v (s : State) (k : Reg) (b : Byte) :
    (s.setV k b).v = s.v.set k.val b := rfl

@[simp] theorem State.setV_i (s : State) (k : Reg) (b : Byte) :
    (s.setV k b).i = s.i := rfl

@[simp] theorem State.setV_pc (s : State) (k : Reg) (b : Byte) :
    (s.setV k b).pc = s.pc := rfl

@[simp] theorem State.setV_sp (s : State) (k : Reg) (b : Byte) :
    (s.setV k b).sp = s.sp := rfl

@[simp] theorem State.setV_stack (s : State) (k : Reg) (b : Byte) :
    (s.setV k b).stack = s.stack := rfl

@[simp] theorem State.setV_dt (s : State) (k : Reg) (b : Byte) :
    (s.setV k b).dt = s.dt := rfl

@[simp] theorem State.setV_st (s : State) (k : Reg) (b : Byte) :
    (s.setV k b).st = s.st := rfl

@[simp] theorem State.setV_fb (s : State) (k : Reg) (b : Byte) :
    (s.setV k b).fb = s.fb := rfl

@[simp] theorem State.setV_mem (s : State) (k : Reg) (b : Byte) :
    (s.setV k b).mem = s.mem := rfl

@[simp] theorem State.setV_run (s : State) (k : Reg) (b : Byte) :
    (s.setV k b).run = s.run := rfl

@[simp] theorem State.setV_font (s : State) (k : Reg) (b : Byte) :
    (s.setV k b).font = s.font := rfl

@[simp] theorem State.setV_inputs (s : State) (k : Reg) (b : Byte) :
    (s.setV k b).inputs = s.inputs := rfl

@[simp] theorem State.setV_history (s : State) (k : Reg) (b : Byte) :
    (s.setV k b).history = s.history := rfl

@[simp] theorem State.setV_ticks (s : State) (k : Reg) (b : Byte) :
    (s.setV k b).ticks = s.ticks := rfl

@[simp] theorem State.getSlot_setV (s : State) (k : Reg) (b : Byte) (j : Fin 16) :
    (s.setV k b).getSlot j = s.getSlot j := rfl

@[simp] theorem State.readByte_setV (s : State) (k : Reg) (b : Byte) (p : Nat) :
    (s.setV k b).readByte p = s.readByte p := rfl

/-! ### `setI` -/

@[simp] theorem State.setI_v (s : State) (w : Word) :
    (s.setI w).v = s.v := rfl

@[simp] theorem State.setI_i (s : State) (w : Word) :
    (s.setI w).i = w := rfl

@[simp] theorem State.setI_pc (s : State) (w : Word) :
    (s.setI w).pc = s.pc := rfl

@[simp] theorem State.setI_sp (s : State) (w : Word) :
    (s.setI w).sp = s.sp := rfl

@[simp] theorem State.setI_stack (s : State) (w : Word) :
    (s.setI w).stack = s.stack := rfl

@[simp] theorem State.setI_dt (s : State) (w : Word) :
    (s.setI w).dt = s.dt := rfl

@[simp] theorem State.setI_st (s : State) (w : Word) :
    (s.setI w).st = s.st := rfl

@[simp] theorem State.setI_fb (s : State) (w : Word) :
    (s.setI w).fb = s.fb := rfl

@[simp] theorem State.setI_mem (s : State) (w : Word) :
    (s.setI w).mem = s.mem := rfl

@[simp] theorem State.setI_run (s : State) (w : Word) :
    (s.setI w).run = s.run := rfl

@[simp] theorem State.setI_font (s : State) (w : Word) :
    (s.setI w).font = s.font := rfl

@[simp] theorem State.setI_inputs (s : State) (w : Word) :
    (s.setI w).inputs = s.inputs := rfl

@[simp] theorem State.setI_history (s : State) (w : Word) :
    (s.setI w).history = s.history := rfl

@[simp] theorem State.setI_ticks (s : State) (w : Word) :
    (s.setI w).ticks = s.ticks := rfl

@[simp] theorem State.getV_setI (s : State) (w : Word) (j : Reg) :
    (s.setI w).getV j = s.getV j := rfl

@[simp] theorem State.getSlot_setI (s : State) (w : Word) (j : Fin 16) :
    (s.setI w).getSlot j = s.getSlot j := rfl

@[simp] theorem State.readByte_setI (s : State) (w : Word) (p : Nat) :
    (s.setI w).readByte p = s.readByte p := rfl

/-! ### `setPc` -/

@[simp] theorem State.setPc_v (s : State) (w : Word) :
    (s.setPc w).v = s.v := rfl

@[simp] theorem State.setPc_i (s : State) (w : Word) :
    (s.setPc w).i = s.i := rfl

@[simp] theorem State.setPc_pc (s : State) (w : Word) :
    (s.setPc w).pc = w := rfl

@[simp] theorem State.setPc_sp (s : State) (w : Word) :
    (s.setPc w).sp = s.sp := rfl

@[simp] theorem State.setPc_stack (s : State) (w : Word) :
    (s.setPc w).stack = s.stack := rfl

@[simp] theorem State.setPc_dt (s : State) (w : Word) :
    (s.setPc w).dt = s.dt := rfl

@[simp] theorem State.setPc_st (s : State) (w : Word) :
    (s.setPc w).st = s.st := rfl

@[simp] theorem State.setPc_fb (s : State) (w : Word) :
    (s.setPc w).fb = s.fb := rfl

@[simp] theorem State.setPc_mem (s : State) (w : Word) :
    (s.setPc w).mem = s.mem := rfl

@[simp] theorem State.setPc_run (s : State) (w : Word) :
    (s.setPc w).run = s.run := rfl

@[simp] theorem State.setPc_font (s : State) (w : Word) :
    (s.setPc w).font = s.font := rfl

@[simp] theorem State.setPc_inputs (s : State) (w : Word) :
    (s.setPc w).inputs = s.inputs := rfl

@[simp] theorem State.setPc_history (s : State) (w : Word) :
    (s.setPc w).history = s.history := rfl

@[simp] theorem State.setPc_ticks (s : State) (w : Word) :
    (s.setPc w).ticks = s.ticks := rfl

@[simp] theorem State.getV_setPc (s : State) (w : Word) (j : Reg) :
    (s.setPc w).getV j = s.getV j := rfl

@[simp] theorem State.getSlot_setPc (s : State) (w : Word) (j : Fin 16) :
    (s.setPc w).getSlot j = s.getSlot j := rfl

@[simp] theorem State.readByte_setPc (s : State) (w : Word) (p : Nat) :
    (s.setPc w).readByte p = s.readByte p := rfl

/-! ### `setDT` -/

@[simp] theorem State.setDT_v (s : State) (b : Byte) :
    (s.setDT b).v = s.v := rfl

@[simp] theorem State.setDT_i (s : State) (b : Byte) :
    (s.setDT b).i = s.i := rfl

@[simp] theorem State.setDT_pc (s : State) (b : Byte) :
    (s.setDT b).pc = s.pc := rfl

@[simp] theorem State.setDT_sp (s : State) (b : Byte) :
    (s.setDT b).sp = s.sp := rfl

@[simp] theorem State.setDT_stack (s : State) (b : Byte) :
    (s.setDT b).stack = s.stack := rfl

@[simp] theorem State.setDT_dt (s : State) (b : Byte) :
    (s.setDT b).dt = b := rfl

@[simp] theorem State.setDT_st (s : State) (b : Byte) :
    (s.setDT b).st = s.st := rfl

@[simp] theorem State.setDT_fb (s : State) (b : Byte) :
    (s.setDT b).fb = s.fb := rfl

@[simp] theorem State.setDT_mem (s : State) (b : Byte) :
    (s.setDT b).mem = s.mem := rfl

@[simp] theorem State.setDT_run (s : State) (b : Byte) :
    (s.setDT b).run = s.run := rfl

@[simp] theorem State.setDT_font (s : State) (b : Byte) :
    (s.setDT b).font = s.font := rfl

@[simp] theorem State.setDT_inputs (s : State) (b : Byte) :
    (s.setDT b).inputs = s.inputs := rfl

@[simp] theorem State.setDT_history (s : State) (b : Byte) :
    (s.setDT b).history = s.history := rfl

@[simp] theorem State.setDT_ticks (s : State) (b : Byte) :
    (s.setDT b).ticks = s.ticks := rfl

@[simp] theorem State.getV_setDT (s : State) (b : Byte) (j : Reg) :
    (s.setDT b).getV j = s.getV j := rfl

@[simp] theorem State.getSlot_setDT (s : State) (b : Byte) (j : Fin 16) :
    (s.setDT b).getSlot j = s.getSlot j := rfl

@[simp] theorem State.readByte_setDT (s : State) (b : Byte) (p : Nat) :
    (s.setDT b).readByte p = s.readByte p := rfl

/-! ### `setST` -/

@[simp] theorem State.setST_v (s : State) (b : Byte) :
    (s.setST b).v = s.v := rfl

@[simp] theorem State.setST_i (s : State) (b : Byte) :
    (s.setST b).i = s.i := rfl

@[simp] theorem State.setST_pc (s : State) (b : Byte) :
    (s.setST b).pc = s.pc := rfl

@[simp] theorem State.setST_sp (s : State) (b : Byte) :
    (s.setST b).sp = s.sp := rfl

@[simp] theorem State.setST_stack (s : State) (b : Byte) :
    (s.setST b).stack = s.stack := rfl

@[simp] theorem State.setST_dt (s : State) (b : Byte) :
    (s.setST b).dt = s.dt := rfl

@[simp] theorem State.setST_st (s : State) (b : Byte) :
    (s.setST b).st = b := rfl

@[simp] theorem State.setST_fb (s : State) (b : Byte) :
    (s.setST b).fb = s.fb := rfl

@[simp] theorem State.setST_mem (s : State) (b : Byte) :
    (s.setST b).mem = s.mem := rfl

@[simp] theorem State.setST_run (s : State) (b : Byte) :
    (s.setST b).run = s.run := rfl

@[simp] theorem State.setST_font (s : State) (b : Byte) :
    (s.setST b).font = s.font := rfl

@[simp] theorem State.setST_inputs (s : State) (b : Byte) :
    (s.setST b).inputs = s.inputs := rfl

@[simp] theorem State.setST_history (s : State) (b : Byte) :
    (s.setST b).history = s.history := rfl

@[simp] theorem State.setST_ticks (s : State) (b : Byte) :
    (s.setST b).ticks = s.ticks := rfl

@[simp] theorem State.getV_setST (s : State) (b : Byte) (j : Reg) :
    (s.setST b).getV j = s.getV j := rfl

@[simp] theorem State.getSlot_setST (s : State) (b : Byte) (j : Fin 16) :
    (s.setST b).getSlot j = s.getSlot j := rfl

@[simp] theorem State.readByte_setST (s : State) (b : Byte) (p : Nat) :
    (s.setST b).readByte p = s.readByte p := rfl

/-! ### `setFB` -/

@[simp] theorem State.setFB_v (s : State) (fb : Framebuffer) :
    (s.setFB fb).v = s.v := rfl

@[simp] theorem State.setFB_i (s : State) (fb : Framebuffer) :
    (s.setFB fb).i = s.i := rfl

@[simp] theorem State.setFB_pc (s : State) (fb : Framebuffer) :
    (s.setFB fb).pc = s.pc := rfl

@[simp] theorem State.setFB_sp (s : State) (fb : Framebuffer) :
    (s.setFB fb).sp = s.sp := rfl

@[simp] theorem State.setFB_stack (s : State) (fb : Framebuffer) :
    (s.setFB fb).stack = s.stack := rfl

@[simp] theorem State.setFB_dt (s : State) (fb : Framebuffer) :
    (s.setFB fb).dt = s.dt := rfl

@[simp] theorem State.setFB_st (s : State) (fb : Framebuffer) :
    (s.setFB fb).st = s.st := rfl

@[simp] theorem State.setFB_fb (s : State) (fb : Framebuffer) :
    (s.setFB fb).fb = fb := rfl

@[simp] theorem State.setFB_mem (s : State) (fb : Framebuffer) :
    (s.setFB fb).mem = s.mem := rfl

@[simp] theorem State.setFB_run (s : State) (fb : Framebuffer) :
    (s.setFB fb).run = s.run := rfl

@[simp] theorem State.setFB_font (s : State) (fb : Framebuffer) :
    (s.setFB fb).font = s.font := rfl

@[simp] theorem State.setFB_inputs (s : State) (fb : Framebuffer) :
    (s.setFB fb).inputs = s.inputs := rfl

@[simp] theorem State.setFB_history (s : State) (fb : Framebuffer) :
    (s.setFB fb).history = s.history := rfl

@[simp] theorem State.setFB_ticks (s : State) (fb : Framebuffer) :
    (s.setFB fb).ticks = s.ticks := rfl

@[simp] theorem State.getV_setFB (s : State) (fb : Framebuffer) (j : Reg) :
    (s.setFB fb).getV j = s.getV j := rfl

@[simp] theorem State.getSlot_setFB (s : State) (fb : Framebuffer) (j : Fin 16) :
    (s.setFB fb).getSlot j = s.getSlot j := rfl

@[simp] theorem State.readByte_setFB (s : State) (fb : Framebuffer) (p : Nat) :
    (s.setFB fb).readByte p = s.readByte p := rfl

/-! ### `advance` -/

@[simp] theorem State.advance_v (s : State) :
    (s.advance).v = s.v := rfl

@[simp] theorem State.advance_i (s : State) :
    (s.advance).i = s.i := rfl

@[simp] theorem State.advance_pc (s : State) :
    (s.advance).pc = s.pc + 2 := rfl

@[simp] theorem State.advance_sp (s : State) :
    (s.advance).sp = s.sp := rfl

@[simp] theorem State.advance_stack (s : State) :
    (s.advance).stack = s.stack := rfl

@[simp] theorem State.advance_dt (s : State) :
    (s.advance).dt = s.dt := rfl

@[simp] theorem State.advance_st (s : State) :
    (s.advance).st = s.st := rfl

@[simp] theorem State.advance_fb (s : State) :
    (s.advance).fb = s.fb := rfl

@[simp] theorem State.advance_mem (s : State) :
    (s.advance).mem = s.mem := rfl

@[simp] theorem State.advance_run (s : State) :
    (s.advance).run = s.run := rfl

@[simp] theorem State.advance_font (s : State) :
    (s.advance).font = s.font := rfl

@[simp] theorem State.advance_inputs (s : State) :
    (s.advance).inputs = s.inputs := rfl

@[simp] theorem State.advance_history (s : State) :
    (s.advance).history = s.history := rfl

@[simp] theorem State.advance_ticks (s : State) :
    (s.advance).ticks = s.ticks := rfl

@[simp] theorem State.getV_advance (s : State) (j : Reg) :
    (s.advance).getV j = s.getV j := rfl

@[simp] theorem State.getSlot_advance (s : State) (j : Fin 16) :
    (s.advance).getSlot j = s.getSlot j := rfl

@[simp] theorem State.readByte_advance (s : State) (p : Nat) :
    (s.advance).readByte p = s.readByte p := rfl

/-! ### `skipIf` -/

@[simp] theorem State.skipIf_v (s : State) (c : Bool) :
    (s.skipIf c).v = s.v := rfl

@[simp] theorem State.skipIf_i (s : State) (c : Bool) :
    (s.skipIf c).i = s.i := rfl

@[simp] theorem State.skipIf_pc (s : State) (c : Bool) :
    (s.skipIf c).pc = if c then s.pc + 4 else s.pc + 2 := rfl

@[simp] theorem State.skipIf_sp (s : State) (c : Bool) :
    (s.skipIf c).sp = s.sp := rfl

@[simp] theorem State.skipIf_stack (s : State) (c : Bool) :
    (s.skipIf c).stack = s.stack := rfl

@[simp] theorem State.skipIf_dt (s : State) (c : Bool) :
    (s.skipIf c).dt = s.dt := rfl

@[simp] theorem State.skipIf_st (s : State) (c : Bool) :
    (s.skipIf c).st = s.st := rfl

@[simp] theorem State.skipIf_fb (s : State) (c : Bool) :
    (s.skipIf c).fb = s.fb := rfl

@[simp] theorem State.skipIf_mem (s : State) (c : Bool) :
    (s.skipIf c).mem = s.mem := rfl

@[simp] theorem State.skipIf_run (s : State) (c : Bool) :
    (s.skipIf c).run = s.run := rfl

@[simp] theorem State.skipIf_font (s : State) (c : Bool) :
    (s.skipIf c).font = s.font := rfl

@[simp] theorem State.skipIf_inputs (s : State) (c : Bool) :
    (s.skipIf c).inputs = s.inputs := rfl

@[simp] theorem State.skipIf_history (s : State) (c : Bool) :
    (s.skipIf c).history = s.history := rfl

@[simp] theorem State.skipIf_ticks (s : State) (c : Bool) :
    (s.skipIf c).ticks = s.ticks := rfl

@[simp] theorem State.getV_skipIf (s : State) (c : Bool) (j : Reg) :
    (s.skipIf c).getV j = s.getV j := rfl

@[simp] theorem State.getSlot_skipIf (s : State) (c : Bool) (j : Fin 16) :
    (s.skipIf c).getSlot j = s.getSlot j := rfl

@[simp] theorem State.readByte_skipIf (s : State) (c : Bool) (p : Nat) :
    (s.skipIf c).readByte p = s.readByte p := rfl

/-! ### `writeFlagged` -/

@[simp] theorem State.writeFlagged_v (s : State) (x : Reg) (f r : Byte) :
    (s.writeFlagged x f r).v = (s.v.set flagReg.val f).set x.val r := rfl

@[simp] theorem State.writeFlagged_i (s : State) (x : Reg) (f r : Byte) :
    (s.writeFlagged x f r).i = s.i := rfl

@[simp] theorem State.writeFlagged_pc (s : State) (x : Reg) (f r : Byte) :
    (s.writeFlagged x f r).pc = s.pc := rfl

@[simp] theorem State.writeFlagged_sp (s : State) (x : Reg) (f r : Byte) :
    (s.writeFlagged x f r).sp = s.sp := rfl

@[simp] theorem State.writeFlagged_stack (s : State) (x : Reg) (f r : Byte) :
    (s.writeFlagged x f r).stack = s.stack := rfl

@[simp] theorem State.writeFlagged_dt (s : State) (x : Reg) (f r : Byte) :
    (s.writeFlagged x f r).dt = s.dt := rfl

@[simp] theorem State.writeFlagged_st (s : State) (x : Reg) (f r : Byte) :
    (s.writeFlagged x f r).st = s.st := rfl

@[simp] theorem State.writeFlagged_fb (s : State) (x : Reg) (f r : Byte) :
    (s.writeFlagged x f r).fb = s.fb := rfl

@[simp] theorem State.writeFlagged_mem (s : State) (x : Reg) (f r : Byte) :
    (s.writeFlagged x f r).mem = s.mem := rfl

@[simp] theorem State.writeFlagged_run (s : State) (x : Reg) (f r : Byte) :
    (s.writeFlagged x f r).run = s.run := rfl

@[simp] theorem State.writeFlagged_font (s : State) (x : Reg) (f r : Byte) :
    (s.writeFlagged x f r).font = s.font := rfl

@[simp] theorem State.writeFlagged_inputs (s : State) (x : Reg) (f r : Byte) :
    (s.writeFlagged x f r).inputs = s.inputs := rfl

@[simp] theorem State.writeFlagged_history (s : State) (x : Reg) (f r : Byte) :
    (s.writeFlagged x f r).history = s.history := rfl

@[simp] theorem State.writeFlagged_ticks (s : State) (x : Reg) (f r : Byte) :
    (s.writeFlagged x f r).ticks = s.ticks := rfl

@[simp] theorem State.getSlot_writeFlagged (s : State) (x : Reg) (f r : Byte) (j : Fin 16) :
    (s.writeFlagged x f r).getSlot j = s.getSlot j := rfl

@[simp] theorem State.readByte_writeFlagged (s : State) (x : Reg) (f r : Byte) (p : Nat) :
    (s.writeFlagged x f r).readByte p = s.readByte p := rfl

/-! ### `writeByte` -/

@[simp] theorem State.writeByte_v (s : State) (a : Nat) (b : Byte) :
    (s.writeByte a b).v = s.v := rfl

@[simp] theorem State.writeByte_i (s : State) (a : Nat) (b : Byte) :
    (s.writeByte a b).i = s.i := rfl

@[simp] theorem State.writeByte_pc (s : State) (a : Nat) (b : Byte) :
    (s.writeByte a b).pc = s.pc := rfl

@[simp] theorem State.writeByte_sp (s : State) (a : Nat) (b : Byte) :
    (s.writeByte a b).sp = s.sp := rfl

@[simp] theorem State.writeByte_stack (s : State) (a : Nat) (b : Byte) :
    (s.writeByte a b).stack = s.stack := rfl

@[simp] theorem State.writeByte_dt (s : State) (a : Nat) (b : Byte) :
    (s.writeByte a b).dt = s.dt := rfl

@[simp] theorem State.writeByte_st (s : State) (a : Nat) (b : Byte) :
    (s.writeByte a b).st = s.st := rfl

@[simp] theorem State.writeByte_fb (s : State) (a : Nat) (b : Byte) :
    (s.writeByte a b).fb = s.fb := rfl

@[simp] theorem State.writeByte_mem (s : State) (a : Nat) (b : Byte) :
    (s.writeByte a b).mem = Memory.write s.font s.mem a b := rfl

@[simp] theorem State.writeByte_run (s : State) (a : Nat) (b : Byte) :
    (s.writeByte a b).run = s.run := rfl

@[simp] theorem State.writeByte_font (s : State) (a : Nat) (b : Byte) :
    (s.writeByte a b).font = s.font := rfl

@[simp] theorem State.writeByte_inputs (s : State) (a : Nat) (b : Byte) :
    (s.writeByte a b).inputs = s.inputs := rfl

@[simp] theorem State.writeByte_history (s : State) (a : Nat) (b : Byte) :
    (s.writeByte a b).history = s.history := rfl

@[simp] theorem State.writeByte_ticks (s : State) (a : Nat) (b : Byte) :
    (s.writeByte a b).ticks = s.ticks := rfl

@[simp] theorem State.getV_writeByte (s : State) (a : Nat) (b : Byte) (j : Reg) :
    (s.writeByte a b).getV j = s.getV j := rfl

@[simp] theorem State.getSlot_writeByte (s : State) (a : Nat) (b : Byte) (j : Fin 16) :
    (s.writeByte a b).getSlot j = s.getSlot j := rfl

/-! ### `push` -/

@[simp] theorem State.push_v (s : State) (w : Word) (h : s.sp.val < 16) :
    (s.push w h).v = s.v := rfl

@[simp] theorem State.push_i (s : State) (w : Word) (h : s.sp.val < 16) :
    (s.push w h).i = s.i := rfl

@[simp] theorem State.push_pc (s : State) (w : Word) (h : s.sp.val < 16) :
    (s.push w h).pc = s.pc := rfl

@[simp] theorem State.push_sp (s : State) (w : Word) (h : s.sp.val < 16) :
    (s.push w h).sp = ⟨s.sp.val + 1, by omega⟩ := rfl

@[simp] theorem State.push_stack (s : State) (w : Word) (h : s.sp.val < 16) :
    (s.push w h).stack = s.stack.set s.sp.val w := rfl

@[simp] theorem State.push_dt (s : State) (w : Word) (h : s.sp.val < 16) :
    (s.push w h).dt = s.dt := rfl

@[simp] theorem State.push_st (s : State) (w : Word) (h : s.sp.val < 16) :
    (s.push w h).st = s.st := rfl

@[simp] theorem State.push_fb (s : State) (w : Word) (h : s.sp.val < 16) :
    (s.push w h).fb = s.fb := rfl

@[simp] theorem State.push_mem (s : State) (w : Word) (h : s.sp.val < 16) :
    (s.push w h).mem = s.mem := rfl

@[simp] theorem State.push_run (s : State) (w : Word) (h : s.sp.val < 16) :
    (s.push w h).run = s.run := rfl

@[simp] theorem State.push_font (s : State) (w : Word) (h : s.sp.val < 16) :
    (s.push w h).font = s.font := rfl

@[simp] theorem State.push_inputs (s : State) (w : Word) (h : s.sp.val < 16) :
    (s.push w h).inputs = s.inputs := rfl

@[simp] theorem State.push_history (s : State) (w : Word) (h : s.sp.val < 16) :
    (s.push w h).history = s.history := rfl

@[simp] theorem State.push_ticks (s : State) (w : Word) (h : s.sp.val < 16) :
    (s.push w h).ticks = s.ticks := rfl

@[simp] theorem State.getV_push (s : State) (w : Word) (h : s.sp.val < 16) (j : Reg) :
    (s.push w h).getV j = s.getV j := rfl

@[simp] theorem State.readByte_push (s : State) (w : Word) (h : s.sp.val < 16) (p : Nat) :
    (s.push w h).readByte p = s.readByte p := rfl

/-! ### `pop` -/

@[simp] theorem State.pop_v (s : State) :
    (s.pop).v = s.v := rfl

@[simp] theorem State.pop_i (s : State) :
    (s.pop).i = s.i := rfl

@[simp] theorem State.pop_pc (s : State) :
    (s.pop).pc = s.pc := rfl

@[simp] theorem State.pop_sp (s : State) :
    (s.pop).sp = s.poppedSp.castSucc := rfl

@[simp] theorem State.pop_stack (s : State) :
    (s.pop).stack = s.stack := rfl

@[simp] theorem State.pop_dt (s : State) :
    (s.pop).dt = s.dt := rfl

@[simp] theorem State.pop_st (s : State) :
    (s.pop).st = s.st := rfl

@[simp] theorem State.pop_fb (s : State) :
    (s.pop).fb = s.fb := rfl

@[simp] theorem State.pop_mem (s : State) :
    (s.pop).mem = s.mem := rfl

@[simp] theorem State.pop_run (s : State) :
    (s.pop).run = s.run := rfl

@[simp] theorem State.pop_font (s : State) :
    (s.pop).font = s.font := rfl

@[simp] theorem State.pop_inputs (s : State) :
    (s.pop).inputs = s.inputs := rfl

@[simp] theorem State.pop_history (s : State) :
    (s.pop).history = s.history := rfl

@[simp] theorem State.pop_ticks (s : State) :
    (s.pop).ticks = s.ticks := rfl

@[simp] theorem State.getV_pop (s : State) (j : Reg) :
    (s.pop).getV j = s.getV j := rfl

@[simp] theorem State.getSlot_pop (s : State) (j : Fin 16) :
    (s.pop).getSlot j = s.getSlot j := rfl

@[simp] theorem State.readByte_pop (s : State) (p : Nat) :
    (s.pop).readByte p = s.readByte p := rfl

/-! ### `emit` -/

@[simp] theorem State.emit_v (s : State) (e : Event) :
    (s.emit e).v = s.v := rfl

@[simp] theorem State.emit_i (s : State) (e : Event) :
    (s.emit e).i = s.i := rfl

@[simp] theorem State.emit_pc (s : State) (e : Event) :
    (s.emit e).pc = s.pc := rfl

@[simp] theorem State.emit_sp (s : State) (e : Event) :
    (s.emit e).sp = s.sp := rfl

@[simp] theorem State.emit_stack (s : State) (e : Event) :
    (s.emit e).stack = s.stack := rfl

@[simp] theorem State.emit_dt (s : State) (e : Event) :
    (s.emit e).dt = s.dt := rfl

@[simp] theorem State.emit_st (s : State) (e : Event) :
    (s.emit e).st = s.st := rfl

@[simp] theorem State.emit_fb (s : State) (e : Event) :
    (s.emit e).fb = s.fb := rfl

@[simp] theorem State.emit_mem (s : State) (e : Event) :
    (s.emit e).mem = s.mem := rfl

@[simp] theorem State.emit_run (s : State) (e : Event) :
    (s.emit e).run = s.run := rfl

@[simp] theorem State.emit_font (s : State) (e : Event) :
    (s.emit e).font = s.font := rfl

@[simp] theorem State.emit_inputs (s : State) (e : Event) :
    (s.emit e).inputs = s.inputs := rfl

@[simp] theorem State.emit_history (s : State) (e : Event) :
    (s.emit e).history = e :: s.history := rfl

@[simp] theorem State.emit_ticks (s : State) (e : Event) :
    (s.emit e).ticks = s.ticks := rfl

@[simp] theorem State.getV_emit (s : State) (e : Event) (j : Reg) :
    (s.emit e).getV j = s.getV j := rfl

@[simp] theorem State.getSlot_emit (s : State) (e : Event) (j : Fin 16) :
    (s.emit e).getSlot j = s.getSlot j := rfl

@[simp] theorem State.readByte_emit (s : State) (e : Event) (p : Nat) :
    (s.emit e).readByte p = s.readByte p := rfl

/-! ### `halt` -/

@[simp] theorem State.halt_v (s : State) (r : Run) :
    (s.halt r).v = s.v := rfl

@[simp] theorem State.halt_i (s : State) (r : Run) :
    (s.halt r).i = s.i := rfl

@[simp] theorem State.halt_pc (s : State) (r : Run) :
    (s.halt r).pc = s.pc := rfl

@[simp] theorem State.halt_sp (s : State) (r : Run) :
    (s.halt r).sp = s.sp := rfl

@[simp] theorem State.halt_stack (s : State) (r : Run) :
    (s.halt r).stack = s.stack := rfl

@[simp] theorem State.halt_dt (s : State) (r : Run) :
    (s.halt r).dt = s.dt := rfl

@[simp] theorem State.halt_st (s : State) (r : Run) :
    (s.halt r).st = s.st := rfl

@[simp] theorem State.halt_fb (s : State) (r : Run) :
    (s.halt r).fb = s.fb := rfl

@[simp] theorem State.halt_mem (s : State) (r : Run) :
    (s.halt r).mem = s.mem := rfl

@[simp] theorem State.halt_run (s : State) (r : Run) :
    (s.halt r).run = r := rfl

@[simp] theorem State.halt_font (s : State) (r : Run) :
    (s.halt r).font = s.font := rfl

@[simp] theorem State.halt_inputs (s : State) (r : Run) :
    (s.halt r).inputs = s.inputs := rfl

@[simp] theorem State.halt_history (s : State) (r : Run) :
    (s.halt r).history = .halted r :: s.history := rfl

@[simp] theorem State.halt_ticks (s : State) (r : Run) :
    (s.halt r).ticks = s.ticks := rfl

@[simp] theorem State.getV_halt (s : State) (r : Run) (j : Reg) :
    (s.halt r).getV j = s.getV j := rfl

@[simp] theorem State.getSlot_halt (s : State) (r : Run) (j : Fin 16) :
    (s.halt r).getSlot j = s.getSlot j := rfl

@[simp] theorem State.readByte_halt (s : State) (r : Run) (p : Nat) :
    (s.halt r).readByte p = s.readByte p := rfl

/-! ### `raise` -/

@[simp] theorem State.raise_v (s : State) (c : Cause) :
    (s.raise c).v = s.v := rfl

@[simp] theorem State.raise_i (s : State) (c : Cause) :
    (s.raise c).i = s.i := rfl

@[simp] theorem State.raise_pc (s : State) (c : Cause) :
    (s.raise c).pc = s.pc := rfl

@[simp] theorem State.raise_sp (s : State) (c : Cause) :
    (s.raise c).sp = s.sp := rfl

@[simp] theorem State.raise_stack (s : State) (c : Cause) :
    (s.raise c).stack = s.stack := rfl

@[simp] theorem State.raise_dt (s : State) (c : Cause) :
    (s.raise c).dt = s.dt := rfl

@[simp] theorem State.raise_st (s : State) (c : Cause) :
    (s.raise c).st = s.st := rfl

@[simp] theorem State.raise_fb (s : State) (c : Cause) :
    (s.raise c).fb = s.fb := rfl

@[simp] theorem State.raise_mem (s : State) (c : Cause) :
    (s.raise c).mem = s.mem := rfl

@[simp] theorem State.raise_run (s : State) (c : Cause) :
    (s.raise c).run = .faulted c := rfl

@[simp] theorem State.raise_font (s : State) (c : Cause) :
    (s.raise c).font = s.font := rfl

@[simp] theorem State.raise_inputs (s : State) (c : Cause) :
    (s.raise c).inputs = s.inputs := rfl

@[simp] theorem State.raise_history (s : State) (c : Cause) :
    (s.raise c).history = .halted (.faulted c) :: s.history := rfl

@[simp] theorem State.raise_ticks (s : State) (c : Cause) :
    (s.raise c).ticks = s.ticks := rfl

@[simp] theorem State.getV_raise (s : State) (c : Cause) (j : Reg) :
    (s.raise c).getV j = s.getV j := rfl

@[simp] theorem State.getSlot_raise (s : State) (c : Cause) (j : Fin 16) :
    (s.raise c).getSlot j = s.getSlot j := rfl

@[simp] theorem State.readByte_raise (s : State) (c : Cause) (p : Nat) :
    (s.raise c).readByte p = s.readByte p := rfl

/-! ### `countDraw` -/

@[simp] theorem State.countDraw_v (s : State) :
    (s.countDraw).v = s.v := rfl

@[simp] theorem State.countDraw_i (s : State) :
    (s.countDraw).i = s.i := rfl

@[simp] theorem State.countDraw_pc (s : State) :
    (s.countDraw).pc = s.pc := rfl

@[simp] theorem State.countDraw_sp (s : State) :
    (s.countDraw).sp = s.sp := rfl

@[simp] theorem State.countDraw_stack (s : State) :
    (s.countDraw).stack = s.stack := rfl

@[simp] theorem State.countDraw_dt (s : State) :
    (s.countDraw).dt = s.dt := rfl

@[simp] theorem State.countDraw_st (s : State) :
    (s.countDraw).st = s.st := rfl

@[simp] theorem State.countDraw_fb (s : State) :
    (s.countDraw).fb = s.fb := rfl

@[simp] theorem State.countDraw_mem (s : State) :
    (s.countDraw).mem = s.mem := rfl

@[simp] theorem State.countDraw_run (s : State) :
    (s.countDraw).run = s.run := rfl

@[simp] theorem State.countDraw_font (s : State) :
    (s.countDraw).font = s.font := rfl

@[simp] theorem State.countDraw_inputs (s : State) :
    (s.countDraw).inputs = { s.inputs with draws := s.inputs.draws + 1 } := rfl

@[simp] theorem State.countDraw_history (s : State) :
    (s.countDraw).history = s.history := rfl

@[simp] theorem State.countDraw_ticks (s : State) :
    (s.countDraw).ticks = s.ticks := rfl

@[simp] theorem State.getV_countDraw (s : State) (j : Reg) :
    (s.countDraw).getV j = s.getV j := rfl

@[simp] theorem State.getSlot_countDraw (s : State) (j : Fin 16) :
    (s.countDraw).getSlot j = s.getSlot j := rfl

@[simp] theorem State.readByte_countDraw (s : State) (p : Nat) :
    (s.countDraw).readByte p = s.readByte p := rfl

/-! ### `setKeys` -/

@[simp] theorem State.setKeys_v (s : State) (ks : List Config.KeySample) :
    (s.setKeys ks).v = s.v := rfl

@[simp] theorem State.setKeys_i (s : State) (ks : List Config.KeySample) :
    (s.setKeys ks).i = s.i := rfl

@[simp] theorem State.setKeys_pc (s : State) (ks : List Config.KeySample) :
    (s.setKeys ks).pc = s.pc := rfl

@[simp] theorem State.setKeys_sp (s : State) (ks : List Config.KeySample) :
    (s.setKeys ks).sp = s.sp := rfl

@[simp] theorem State.setKeys_stack (s : State) (ks : List Config.KeySample) :
    (s.setKeys ks).stack = s.stack := rfl

@[simp] theorem State.setKeys_dt (s : State) (ks : List Config.KeySample) :
    (s.setKeys ks).dt = s.dt := rfl

@[simp] theorem State.setKeys_st (s : State) (ks : List Config.KeySample) :
    (s.setKeys ks).st = s.st := rfl

@[simp] theorem State.setKeys_fb (s : State) (ks : List Config.KeySample) :
    (s.setKeys ks).fb = s.fb := rfl

@[simp] theorem State.setKeys_mem (s : State) (ks : List Config.KeySample) :
    (s.setKeys ks).mem = s.mem := rfl

@[simp] theorem State.setKeys_run (s : State) (ks : List Config.KeySample) :
    (s.setKeys ks).run = s.run := rfl

@[simp] theorem State.setKeys_font (s : State) (ks : List Config.KeySample) :
    (s.setKeys ks).font = s.font := rfl

@[simp] theorem State.setKeys_inputs (s : State) (ks : List Config.KeySample) :
    (s.setKeys ks).inputs = { s.inputs with keys := ks } := rfl

@[simp] theorem State.setKeys_history (s : State) (ks : List Config.KeySample) :
    (s.setKeys ks).history = s.history := rfl

@[simp] theorem State.setKeys_ticks (s : State) (ks : List Config.KeySample) :
    (s.setKeys ks).ticks = s.ticks := rfl

@[simp] theorem State.getV_setKeys (s : State) (ks : List Config.KeySample) (j : Reg) :
    (s.setKeys ks).getV j = s.getV j := rfl

@[simp] theorem State.getSlot_setKeys (s : State) (ks : List Config.KeySample) (j : Fin 16) :
    (s.setKeys ks).getSlot j = s.getSlot j := rfl

@[simp] theorem State.readByte_setKeys (s : State) (ks : List Config.KeySample) (p : Nat) :
    (s.setKeys ks).readByte p = s.readByte p := rfl

/-! ### `afterStopSample` -/

@[simp] theorem State.afterStopSample_v (s : State) :
    (s.afterStopSample).v = s.v := rfl

@[simp] theorem State.afterStopSample_i (s : State) :
    (s.afterStopSample).i = s.i := rfl

@[simp] theorem State.afterStopSample_pc (s : State) :
    (s.afterStopSample).pc = s.pc := rfl

@[simp] theorem State.afterStopSample_sp (s : State) :
    (s.afterStopSample).sp = s.sp := rfl

@[simp] theorem State.afterStopSample_stack (s : State) :
    (s.afterStopSample).stack = s.stack := rfl

@[simp] theorem State.afterStopSample_dt (s : State) :
    (s.afterStopSample).dt = s.dt := rfl

@[simp] theorem State.afterStopSample_st (s : State) :
    (s.afterStopSample).st = s.st := rfl

@[simp] theorem State.afterStopSample_fb (s : State) :
    (s.afterStopSample).fb = s.fb := rfl

@[simp] theorem State.afterStopSample_mem (s : State) :
    (s.afterStopSample).mem = s.mem := rfl

@[simp] theorem State.afterStopSample_run (s : State) :
    (s.afterStopSample).run = s.run := rfl

@[simp] theorem State.afterStopSample_font (s : State) :
    (s.afterStopSample).font = s.font := rfl

@[simp] theorem State.afterStopSample_inputs (s : State) :
    (s.afterStopSample).inputs = { s.inputs with stop := s.inputs.stop.map (· - 1) } := rfl

@[simp] theorem State.afterStopSample_history (s : State) :
    (s.afterStopSample).history = s.history := rfl

@[simp] theorem State.afterStopSample_ticks (s : State) :
    (s.afterStopSample).ticks = s.ticks := rfl

@[simp] theorem State.getV_afterStopSample (s : State) (j : Reg) :
    (s.afterStopSample).getV j = s.getV j := rfl

@[simp] theorem State.getSlot_afterStopSample (s : State) (j : Fin 16) :
    (s.afterStopSample).getSlot j = s.getSlot j := rfl

@[simp] theorem State.readByte_afterStopSample (s : State) (p : Nat) :
    (s.afterStopSample).readByte p = s.readByte p := rfl

/-! ### `tick` -/

@[simp] theorem State.tick_v (s : State) :
    (s.tick).v = s.v := rfl

@[simp] theorem State.tick_i (s : State) :
    (s.tick).i = s.i := rfl

@[simp] theorem State.tick_pc (s : State) :
    (s.tick).pc = s.pc := rfl

@[simp] theorem State.tick_sp (s : State) :
    (s.tick).sp = s.sp := rfl

@[simp] theorem State.tick_stack (s : State) :
    (s.tick).stack = s.stack := rfl

@[simp] theorem State.tick_dt (s : State) :
    (s.tick).dt = if s.dt = 0 then 0 else s.dt - 1 := rfl

@[simp] theorem State.tick_st (s : State) :
    (s.tick).st = if s.st = 0 then 0 else s.st - 1 := rfl

@[simp] theorem State.tick_fb (s : State) :
    (s.tick).fb = s.fb := rfl

@[simp] theorem State.tick_mem (s : State) :
    (s.tick).mem = s.mem := rfl

@[simp] theorem State.tick_run (s : State) :
    (s.tick).run = s.run := rfl

@[simp] theorem State.tick_font (s : State) :
    (s.tick).font = s.font := rfl

@[simp] theorem State.tick_inputs (s : State) :
    (s.tick).inputs = s.inputs := rfl

@[simp] theorem State.tick_history (s : State) :
    (s.tick).history = if s.st = 0 then s.history else .audioTrigger :: s.history := rfl

@[simp] theorem State.tick_ticks (s : State) :
    (s.tick).ticks = s.ticks + 1 := rfl

@[simp] theorem State.getV_tick (s : State) (j : Reg) :
    (s.tick).getV j = s.getV j := rfl

@[simp] theorem State.getSlot_tick (s : State) (j : Fin 16) :
    (s.tick).getSlot j = s.getSlot j := rfl

@[simp] theorem State.readByte_tick (s : State) (p : Nat) :
    (s.tick).readByte p = s.readByte p := rfl

/-! ### `finishDraw` -/

@[simp] theorem State.finishDraw_v (s : State) (b : Blit) :
    (s.finishDraw b).v = s.v.set flagReg.val (collisionFlag b.hit) := rfl

@[simp] theorem State.finishDraw_i (s : State) (b : Blit) :
    (s.finishDraw b).i = s.i := rfl

@[simp] theorem State.finishDraw_pc (s : State) (b : Blit) :
    (s.finishDraw b).pc = s.pc := rfl

@[simp] theorem State.finishDraw_sp (s : State) (b : Blit) :
    (s.finishDraw b).sp = s.sp := rfl

@[simp] theorem State.finishDraw_stack (s : State) (b : Blit) :
    (s.finishDraw b).stack = s.stack := rfl

@[simp] theorem State.finishDraw_dt (s : State) (b : Blit) :
    (s.finishDraw b).dt = s.dt := rfl

@[simp] theorem State.finishDraw_st (s : State) (b : Blit) :
    (s.finishDraw b).st = s.st := rfl

@[simp] theorem State.finishDraw_fb (s : State) (b : Blit) :
    (s.finishDraw b).fb = b.fb := rfl

@[simp] theorem State.finishDraw_mem (s : State) (b : Blit) :
    (s.finishDraw b).mem = s.mem := rfl

@[simp] theorem State.finishDraw_run (s : State) (b : Blit) :
    (s.finishDraw b).run = s.run := rfl

@[simp] theorem State.finishDraw_font (s : State) (b : Blit) :
    (s.finishDraw b).font = s.font := rfl

@[simp] theorem State.finishDraw_inputs (s : State) (b : Blit) :
    (s.finishDraw b).inputs = s.inputs := rfl

@[simp] theorem State.finishDraw_history (s : State) (b : Blit) :
    (s.finishDraw b).history = .present b.fb :: s.history := rfl

@[simp] theorem State.finishDraw_ticks (s : State) (b : Blit) :
    (s.finishDraw b).ticks = s.ticks := rfl

@[simp] theorem State.getSlot_finishDraw (s : State) (b : Blit) (j : Fin 16) :
    (s.finishDraw b).getSlot j = s.getSlot j := rfl

@[simp] theorem State.readByte_finishDraw (s : State) (b : Blit) (p : Nat) :
    (s.finishDraw b).readByte p = s.readByte p := rfl

/-! ### What a write reads back as -/

@[simp] theorem State.getV_setV (s : State) (k j : Reg) (b : Byte) :
    (s.setV k b).getV j = if j = k then b else s.getV j := by
  simp only [State.getV, State.setV_v, Vector.getElem_set, Fin.ext_iff, eq_comm]

@[simp] theorem State.getV_writeFlagged (s : State) (x j : Reg) (f r : Byte) :
    (s.writeFlagged x f r).getV j
      = if j = x then r else if j = flagReg then f else s.getV j := by
  simp only [State.writeFlagged, State.getV_setV]

@[simp] theorem State.getV_finishDraw (s : State) (b : Blit) (j : Reg) :
    (s.finishDraw b).getV j = if j = flagReg then collisionFlag b.hit else s.getV j := by
  simp only [State.getV, State.finishDraw_v, Vector.getElem_set, Fin.ext_iff, eq_comm]

@[simp] theorem State.getSlot_push (s : State) (w : Word) (h : s.sp.val < 16) (j : Fin 16) :
    (s.push w h).getSlot j = if j.val = s.sp.val then w else s.getSlot j := by
  simp only [State.getSlot, State.push_stack, Vector.getElem_set, eq_comm]

end Sys2Proof.Machine
end

