-- ==== Sys2Proof/Laws/Memory.lean ====
section
/-! SUPPORT. The laws of memory: a read after a write, and the canonical form every write keeps
(20_memory.md R60). -/

namespace Sys2Proof.Machine

theorem Memory.lookup_insert (m : List Host.Cell) (a a' : Nat) (b : Byte) :
    Memory.lookup (Memory.insert m a b) a' = if a' = a then some b else Memory.lookup m a' := by
  induction m with
  | nil => simp only [Memory.insert, Memory.lookup, eq_comm]
  | cons c m ih =>
    obtain ⟨k, c⟩ := c
    unfold Memory.insert
    split
    · simp only [Memory.lookup, eq_comm]
    · split
      · subst_vars
        by_cases h : k = a'
        · simp [Memory.lookup, h]
        · simp [Memory.lookup, h, Ne.symm h]
      · simp only [Memory.lookup, ih]
        split
        · rw [if_neg (by omega)]
        · rfl

theorem Memory.lookup_erase (m : List Host.Cell) (a a' : Nat) :
    Memory.lookup (Memory.erase m a) a' = if a' = a then none else Memory.lookup m a' := by
  induction m with
  | nil => simp [Memory.erase, Memory.lookup]
  | cons c m ih =>
    obtain ⟨k, c⟩ := c
    unfold Memory.erase
    split
    · rw [ih]; split
      · rfl
      · rw [Memory.lookup, if_neg (by omega)]
    · simp only [Memory.lookup, ih]
      split
      · rw [if_neg (by omega)]
      · rfl

/-- A read after a write: the written byte at its address, the old byte elsewhere (R60). -/
theorem Memory.read_write (f : Config.Font) (m : List Host.Cell) (a a' : Nat) (b : Byte) :
    Memory.read f (Memory.write f m a b) a' = if a' = a then b else Memory.read f m a' := by
  unfold Memory.read Memory.write
  split
  · rw [Memory.lookup_erase]; split
    · subst_vars; rfl
    · rfl
  · rw [Memory.lookup_insert]; split <;> rfl

/-- What `Memory.wfFrom` says of a listed cell and the cells after it. -/
theorem Memory.wfFrom_cons (f : Config.Font) (lo k : Nat) (b : Byte) (m : List Host.Cell) :
    Memory.wfFrom f lo ((k, b) :: m) = true ↔
      lo ≤ k ∧ k < 4096 ∧ b ≠ Memory.background f k ∧ Memory.wfFrom f (k + 1) m = true := by
  simp [Memory.wfFrom, and_assoc]

theorem Memory.wfFrom_mono {f : Config.Font} {lo lo' : Nat} {m : List Host.Cell}
    (h : Memory.wfFrom f lo m = true) (hl : lo' ≤ lo) : Memory.wfFrom f lo' m = true := by
  cases m with
  | nil => rfl
  | cons c m =>
    obtain ⟨k, b⟩ := c
    rw [Memory.wfFrom_cons] at *
    exact ⟨by omega, h.2⟩

theorem Memory.wfFrom_insert {f : Config.Font} {m : List Host.Cell} {lo a : Nat} {b : Byte}
    (h : Memory.wfFrom f lo m = true) (hl : lo ≤ a) (ha : a < 4096)
    (hb : b ≠ Memory.background f a) : Memory.wfFrom f lo (Memory.insert m a b) = true := by
  induction m generalizing lo with
  | nil => rw [Memory.insert, Memory.wfFrom_cons]; exact ⟨hl, ha, hb, rfl⟩
  | cons c m ih =>
    obtain ⟨k, c⟩ := c
    rw [Memory.wfFrom_cons] at h
    unfold Memory.insert
    split
    · rw [Memory.wfFrom_cons, Memory.wfFrom_cons]
      exact ⟨hl, ha, hb, by omega, h.2⟩
    · split
      · subst_vars; rw [Memory.wfFrom_cons]; exact ⟨hl, ha, hb, h.2.2.2⟩
      · rw [Memory.wfFrom_cons]
        exact ⟨h.1, h.2.1, h.2.2.1, ih h.2.2.2 (by omega)⟩

theorem Memory.wfFrom_erase {f : Config.Font} {m : List Host.Cell} {lo a : Nat}
    (h : Memory.wfFrom f lo m = true) : Memory.wfFrom f lo (Memory.erase m a) = true := by
  induction m generalizing lo with
  | nil => rfl
  | cons c m ih =>
    obtain ⟨k, c⟩ := c
    rw [Memory.wfFrom_cons] at h
    unfold Memory.erase
    split
    · exact ih (Memory.wfFrom_mono h.2.2.2 (by omega))
    · rw [Memory.wfFrom_cons]; exact ⟨h.1, h.2.1, h.2.2.1, ih h.2.2.2⟩

/-- A write inside the address space keeps the canonical form. -/
theorem Memory.wf_write {f : Config.Font} {m : List Host.Cell} {a : Nat} {b : Byte}
    (h : Memory.wf f m = true) (ha : a < 4096) : Memory.wf f (Memory.write f m a b) = true := by
  unfold Memory.write
  split
  · exact Memory.wfFrom_erase h
  · rename_i hb
    exact Memory.wfFrom_insert h (Nat.zero_le _) ha hb

@[simp] theorem State.readByte_writeByte (s : State) (a p : Nat) (b : Byte) :
    (s.writeByte a b).readByte p = if p = a then b else s.readByte p :=
  Memory.read_write s.font s.mem a p b

end Sys2Proof.Machine
end

