-- ==== Sys2Proof/Laws/Ops.lean ====
section
/-! SUPPORT. For each shared operation, what it does and what it leaves alone. -/

namespace Sys2Proof.Machine

/-! ### Runs of bytes -/

@[simp] theorem State.length_readBytes (s : State) (a n : Nat) : (s.readBytes a n).length = n := by
  induction n generalizing a with
  | zero => rfl
  | succ n ih => rw [State.readBytes, List.length_cons, ih]

/-- Byte `k` of the bytes read from `a`. -/
theorem State.getElem?_readBytes (s : State) (a n k : Nat) :
    (s.readBytes a n)[k]? = if k < n then some (s.readByte (a + k)) else none := by
  induction n generalizing a k with
  | zero => simp [State.readBytes]
  | succ n ih =>
    cases k with
    | zero => simp [State.readBytes]
    | succ k =>
      rw [State.readBytes, List.getElem?_cons_succ, ih]
      simp only [Nat.add_lt_add_iff_right, Nat.add_assoc, Nat.add_comm 1 k]

/-- Byte `k` of the bytes read from `a`. -/
@[simp] theorem State.getElem_readBytes (s : State) (a n k : Nat)
    (h : k < (s.readBytes a n).length) : (s.readBytes a n)[k] = s.readByte (a + k) := by
  rw [List.getElem_eq_iff, State.getElem?_readBytes, if_pos (by simpa using h)]

/-- Storing bytes changes memory and nothing else. -/
theorem State.storeBytes_eq (s : State) (a : Nat) (bs : List Byte) :
    s.storeBytes a bs = { s with mem := (s.storeBytes a bs).mem } := by
  induction bs generalizing s a with
  | nil => rfl
  | cons b bs ih => rw [State.storeBytes, ih]; rfl

/-- The bytes of memory after a store: the stored ones from `a` on, the old ones elsewhere (R63). -/
theorem State.readByte_storeBytes (s : State) (a p : Nat) (bs : List Byte) :
    (s.storeBytes a bs).readByte p =
      if a ≤ p then (bs[p - a]?).getD (s.readByte p) else s.readByte p := by
  induction bs generalizing s a with
  | nil => simp [State.storeBytes]
  | cons b bs ih =>
    rw [State.storeBytes, ih, State.readByte_writeByte]
    by_cases h : p = a
    · subst h; simp
    · by_cases h' : a ≤ p
      · rw [if_pos (by omega), if_pos h', if_neg h, show p - a = (p - (a + 1)) + 1 by omega,
          List.getElem?_cons_succ]
      · rw [if_neg (by omega), if_neg h', if_neg h]

/-- A store inside the address space keeps the canonical form. -/
theorem State.memWf_storeBytes {s : State} {a : Nat} {bs : List Byte}
    (h : Memory.wf s.font s.mem = true) (hr : bs = [] ∨ a + bs.length ≤ 4096) :
    Memory.wf (s.storeBytes a bs).font (s.storeBytes a bs).mem = true := by
  induction bs generalizing s a with
  | nil => exact h
  | cons b bs ih =>
    simp only [reduceCtorEq, List.length_cons, false_or] at hr
    rw [State.storeBytes]
    exact ih (Memory.wf_write h (by omega)) (.inr (by omega))

/-- Loading bytes changes general registers and nothing else. -/
theorem State.loadBytes_eq (s : State) (k : Nat) (bs : List Byte) :
    s.loadBytes k bs = { s with v := (s.loadBytes k bs).v } := by
  induction bs generalizing s k with
  | nil => rfl
  | cons b bs ih => rw [State.loadBytes, ih]; rfl

/-- The registers after a load of at most `16 - k` bytes: the loaded ones from `V[k]` on, the old ones
elsewhere (R185). -/
theorem State.getV_loadBytes (s : State) (k : Nat) (bs : List Byte) (j : Reg)
    (h : k + bs.length ≤ 16) :
    (s.loadBytes k bs).getV j =
      if k ≤ j.val then (bs[j.val - k]?).getD (s.getV j) else s.getV j := by
  induction bs generalizing s k with
  | nil => simp [State.loadBytes]
  | cons b bs ih =>
    simp only [List.length_cons] at h
    have hk : (Fin.ofNat 16 k).val = k := Nat.mod_eq_of_lt (by omega)
    rw [State.loadBytes, ih _ _ (by omega), State.getV_setV]
    by_cases hj : j.val = k
    · rw [if_neg (by omega), if_pos (Fin.ext (by rw [hk, hj])), if_pos (by omega), hj, Nat.sub_self]
      rfl
    · have hne : j ≠ Fin.ofNat 16 k := fun e => hj (by rw [e, hk])
      by_cases h' : k ≤ j.val
      · rw [if_pos (by omega), if_pos h', if_neg hne,
          show j.val - k = (j.val - (k + 1)) + 1 by omega, List.getElem?_cons_succ]
      · rw [if_neg (by omega), if_neg h', if_neg hne]

/-! ### Data faults -/

/-- A guarded access either raises the data fault or leaves the given state. -/
theorem State.guardData_cases (s t : State) (n : Nat) :
    (0 < n ∧ 0xFFF < s.i.toNat + n - 1 ∧
      s.guardData n t = .next (s.raise (.addressData (max s.i.toNat 0x1000) s.pc))) ∨
    ((n = 0 ∨ s.i.toNat + n - 1 ≤ 0xFFF) ∧ s.guardData n t = .next t) := by
  by_cases h : 0 < n ∧ 0xFFF < s.i.toNat + n - 1
  · left; exact ⟨h.1, h.2, by simp only [State.guardData, State.dataFault, if_pos h]⟩
  · right; exact ⟨by omega, by simp only [State.guardData, State.dataFault, if_neg h]⟩

/-- An access in range leaves the given state. -/
theorem State.guardData_ok (s t : State) {n : Nat} (h : n = 0 ∨ s.i.toNat + n - 1 ≤ 0xFFF) :
    s.guardData n t = .next t := by
  rcases s.guardData_cases t n with ⟨h1, h2, _⟩ | ⟨_, he⟩
  · omega
  · exact he

/-- An access above 0xFFF raises the data fault (R213). -/
theorem State.guardData_fault (s t : State) {n : Nat} (h : 0 < n) (h' : 0xFFF < s.i.toNat + n - 1) :
    s.guardData n t = .next (s.raise (.addressData (max s.i.toNat 0x1000) s.pc)) := by
  rcases s.guardData_cases t n with ⟨_, _, he⟩ | ⟨_, _⟩
  · exact he
  · omega

/-- What a guarded access answers: the raised fault of an access above 0xFFF, or the given state. -/
theorem State.guardData_next {s t u : State} {n : Nat} (h : s.guardData n t = .next u) :
    (0 < n ∧ 0xFFF < s.i.toNat + n - 1 ∧
      u = s.raise (.addressData (max s.i.toNat 0x1000) s.pc)) ∨
    ((n = 0 ∨ s.i.toNat + n - 1 ≤ 0xFFF) ∧ u = t) := by
  rcases s.guardData_cases t n with ⟨h1, h2, he⟩ | ⟨h1, he⟩ <;> rw [he] at h <;> cases h
  · exact .inl ⟨h1, h2, rfl⟩
  · exact .inr ⟨h1, rfl⟩

/-! ### The registers store-regs stores -/

@[simp] theorem State.length_regsUpTo (s : State) (x : Reg) :
    (s.regsUpTo x).length = x.val + 1 := by
  simp [State.regsUpTo]

/-- Byte `k` of the stored registers is `V[k]` (R184). -/
theorem State.getElem?_regsUpTo (s : State) (x k : Reg) (h : k ≤ x) :
    (s.regsUpTo x)[k.val]? = some (s.getV k) := by
  have hk : k.val < x.val + 1 := Nat.lt_succ_of_le h
  simp [State.regsUpTo, hk, State.getV]

/-! ### Inputs -/

/-- A sample of `rand` changes the input record and nothing else. -/
theorem State.afterRand_eq (s : State) : s.afterRand = { s with inputs := s.afterRand.inputs } := by
  unfold State.afterRand; split <;> rfl

/-- A sample of `keys` changes the input record and nothing else. -/
theorem State.afterKeys_eq (s : State) : s.afterKeys = { s with inputs := s.afterKeys.inputs } := by
  unfold State.afterKeys; split <;> rfl

theorem mem_pressedKeys (keys : BitVec 16) (k : Key) :
    k ∈ pressedKeys keys ↔ keys.getLsbD k.val = true := by
  simp [pressedKeys]

/-- The answered key is a pressed one (R202). -/
theorem pressed_of_chosenKey {k : Config.KeySample} {key : Key} (h : chosenKey k = some key) :
    k.keys.getLsbD key.val = true :=
  (mem_pressedKeys k.keys key).1 (List.mem_of_getElem? h)

/-- No key is answered only when none is pressed (R202). -/
theorem chosenKey_eq_none {k : Config.KeySample} (h : chosenKey k = none) :
    ∀ key : Key, k.keys.getLsbD key.val = false := by
  intro key
  by_contra hk
  have hm : key ∈ pressedKeys k.keys := (mem_pressedKeys k.keys key).2 (by simpa using hk)
  have hl : 0 < (pressedKeys k.keys).length := List.length_pos_of_mem hm
  rw [chosenKey, List.getElem?_eq_none_iff] at h
  exact absurd (Nat.mod_lt k.pick hl) (by omega)

/-! ### The drain -/

/-- What `n` ticks leave alone. -/
theorem State.tickN_eq (n : Nat) (s : State) :
    State.tickN n s = { s with
      dt := (State.tickN n s).dt
      st := (State.tickN n s).st
      ticks := (State.tickN n s).ticks
      history := (State.tickN n s).history } := by
  induction n generalizing s with
  | zero => rfl
  | succ n ih => rw [State.tickN, ih]; rfl

/-- What the drain leaves alone (R122, R223). -/
theorem State.drain_eq (s : State) :
    s.drain = { s with
      dt := s.drain.dt
      st := s.drain.st
      ticks := s.drain.ticks
      history := s.drain.history } := State.tickN_eq _ s

/-- What the phases before the fetch leave alone (R121, R122). -/
theorem State.ready_eq (s : State) :
    s.ready = { s with
      dt := s.ready.dt
      st := s.ready.st
      ticks := s.ready.ticks
      history := s.ready.history
      inputs := s.afterStopSample.inputs } := State.drain_eq s.afterStopSample

theorem State.ready_v (s : State) : s.ready.v = s.v := by rw [State.ready_eq]

theorem State.ready_i (s : State) : s.ready.i = s.i := by rw [State.ready_eq]

theorem State.ready_pc (s : State) : s.ready.pc = s.pc := by rw [State.ready_eq]

theorem State.ready_sp (s : State) : s.ready.sp = s.sp := by rw [State.ready_eq]

theorem State.ready_stack (s : State) : s.ready.stack = s.stack := by rw [State.ready_eq]

theorem State.ready_mem (s : State) : s.ready.mem = s.mem := by rw [State.ready_eq]

theorem State.ready_font (s : State) : s.ready.font = s.font := by rw [State.ready_eq]

theorem State.ready_fb (s : State) : s.ready.fb = s.fb := by rw [State.ready_eq]

theorem State.ready_run (s : State) : s.ready.run = s.run := by rw [State.ready_eq]

/-! ### The cycle -/

/-- What one step is (R36, R120, R121). -/
theorem step_cases (s : State) :
    (s.run ≠ .running ∧ step s = .next s) ∨
    (s.run = .running ∧ s.stopSeen = true ∧ step s = .next (s.halt .stopped)) ∨
    (s.run = .running ∧ s.stopSeen = false ∧ step s = s.ready.runInstruction) := by
  unfold step State.cycle
  cases hr : s.run with
  | running => cases hs : s.stopSeen <;> simp
  | stopped => simp
  | faulted c => simp

/-- What the phases after the drain are (R123 to R125, R219). -/
theorem State.runInstruction_cases (s : State) :
    (∃ a, s.fetchFault = some a ∧ s.runInstruction = .next (s.raise (.addressFetch a s.pc))) ∨
    (s.fetchFault = none ∧ (∃ e, decodeWord s.fetchWord = .error e) ∧
      s.runInstruction = .next (s.raise (.unknownOpcode s.fetchWord s.pc))) ∨
    (s.fetchFault = none ∧ ∃ i, decodeWord s.fetchWord = .ok i ∧ s.runInstruction = exec i s) := by
  unfold State.runInstruction State.fetchDecode
  cases hf : s.fetchFault with
  | some a => simp
  | none => cases hd : decodeWord s.fetchWord <;> simp

end Sys2Proof.Machine
end

