-- ==== Sys2Proof/Laws/Display.lean ====
section
/-! SUPPORT. The draw unit pixel by pixel (45_display.md R192). -/

namespace Sys2Proof.Machine

theorem pixel_setPixel (fb : Framebuffer) (y y' : Fin 32) (x x' : Fin 64) (c : Bool) :
    pixel (setPixel fb y x c) y' x' = if y' = y ∧ x' = x then c else pixel fb y' x' := by
  unfold pixel setPixel
  rw [Vector.getElem_set]
  by_cases hy : y' = y
  · subst hy
    rw [if_pos rfl, Vector.getElem_set]
    by_cases hx : x' = x
    · subst hx; simp
    · rw [if_neg (fun e => hx (Fin.ext e.symm)), if_neg (fun e => hx e.2)]
  · rw [if_neg (fun e => hy (Fin.ext e.symm)), if_neg (fun e => hy e.1)]

/-- One sprite bit: its pixel is XORed, every other pixel keeps its value. -/
theorem pixel_blitPixel (b : Blit) (y y' : Fin 32) (x x' : Fin 64) (c : Bool) :
    pixel (blitPixel b y x c).fb y' x' =
      if y' = y ∧ x' = x then (pixel b.fb y x ^^ c) else pixel b.fb y' x' :=
  pixel_setPixel b.fb y y' x x' _

/-- The 8 columns of a sprite row are pairwise distinct, because 8 < 64. -/
theorem pixelColumn_inj {vx : Byte} {c c' : Nat} (h : c < 8) (h' : c' < 8)
    (e : pixelColumn vx c = pixelColumn vx c') : c = c' := by
  have := congrArg Fin.val e
  simp only [pixelColumn, Fin.ofNat] at this
  omega

/-- The rows of a sprite are pairwise distinct, because there are at most 15. -/
theorem pixelRow_inj {vy : Byte} {r r' : Nat} (h : r < 16) (h' : r' < 16)
    (e : pixelRow vy r = pixelRow vy r') : r = r' := by
  have := congrArg Fin.val e
  simp only [pixelRow, Fin.ofNat] at this
  omega

/-- Columns `col` to `col + k - 1` of one sprite row. -/
theorem blitRow_spec (vx : Byte) (y : Fin 32) (row : Byte) (col k : Nat) (b : Blit)
    (hk : col + k ≤ 8) :
    (∀ j, col ≤ j → j < col + k →
      pixel (blitRow vx y row col k b).fb y (pixelColumn vx j) =
        (pixel b.fb y (pixelColumn vx j) ^^ spriteBit row j)) ∧
    (∀ (y' : Fin 32) (x' : Fin 64),
      (y' = y → ∀ j, col ≤ j → j < col + k → x' ≠ pixelColumn vx j) →
      pixel (blitRow vx y row col k b).fb y' x' = pixel b.fb y' x') ∧
    ((blitRow vx y row col k b).hit = true ↔ b.hit = true ∨
      ∃ j, col ≤ j ∧ j < col + k ∧ spriteBit row j = true ∧
        pixel b.fb y (pixelColumn vx j) = true) := by
  induction k generalizing col b with
  | zero =>
    refine ⟨fun j h h' => absurd h' (by omega), fun _ _ _ => rfl, ?_⟩
    exact ⟨.inl, fun h => h.elim id fun ⟨j, h, h', _⟩ => absurd h' (by omega)⟩
  | succ k ih =>
    obtain ⟨ih1, ih2, ih3⟩ :=
      ih (col + 1) (blitPixel b y (pixelColumn vx col) (spriteBit row col)) (by omega)
    have hne : ∀ j, col + 1 ≤ j → j < col + (k + 1) → pixelColumn vx j ≠ pixelColumn vx col :=
      fun j h h' e => absurd (pixelColumn_inj (by omega) (by omega) e) (by omega)
    refine ⟨fun j h h' => ?_, fun y' x' hx => ?_, ?_⟩
    · rw [blitRow]
      by_cases hj : j = col
      · subst hj
        rw [ih2 _ _ fun _ j' h1 h2 => (hne j' h1 (by omega)).symm, pixel_blitPixel,
          if_pos ⟨rfl, rfl⟩]
      · rw [ih1 j (by omega) (by omega), pixel_blitPixel,
          if_neg fun e => hne j (by omega) h' e.2]
    · rw [blitRow, ih2 _ _ fun hy j h h' => hx hy j (by omega) (by omega), pixel_blitPixel,
        if_neg fun e => hx e.1 col (Nat.le_refl _) (by omega) e.2]
    · rw [blitRow, ih3]
      have hhit : (blitPixel b y (pixelColumn vx col) (spriteBit row col)).hit = true ↔
          b.hit = true ∨ (spriteBit row col = true ∧ pixel b.fb y (pixelColumn vx col) = true) := by
        simp [blitPixel]
      have hpix : ∀ j, col + 1 ≤ j → j < col + (k + 1) →
          pixel (blitPixel b y (pixelColumn vx col) (spriteBit row col)).fb y (pixelColumn vx j) =
            pixel b.fb y (pixelColumn vx j) := fun j h h' => by
        rw [pixel_blitPixel, if_neg fun e => hne j h h' e.2]
      rw [hhit]
      constructor
      · rintro ((h | ⟨h, h'⟩) | ⟨j, h1, h2, h3, h4⟩)
        · exact .inl h
        · exact .inr ⟨col, Nat.le_refl _, by omega, h, h'⟩
        · exact .inr ⟨j, by omega, by omega, h3, by rwa [hpix j h1 (by omega)] at h4⟩
      · rintro (h | ⟨j, h1, h2, h3, h4⟩)
        · exact .inl (.inl h)
        · by_cases hj : j = col
          · subst hj; exact .inl (.inr ⟨h3, h4⟩)
          · exact .inr ⟨j, by omega, by omega, h3, by rwa [hpix j (by omega) h2]⟩

/-- Rows `r` to `r + rows.length - 1` of a sprite. -/
theorem blitRows_spec (vx vy : Byte) (r : Nat) (rows : List Byte) (b : Blit)
    (hr : r + rows.length ≤ 16) :
    (∀ (j col : Nat) (hj : j < rows.length), col < 8 →
      pixel (blitRows vx vy r rows b).fb (pixelRow vy (r + j)) (pixelColumn vx col) =
        (pixel b.fb (pixelRow vy (r + j)) (pixelColumn vx col) ^^ spriteBit rows[j] col)) ∧
    (∀ (y' : Fin 32) (x' : Fin 64),
      (∀ j col, j < rows.length → col < 8 → y' = pixelRow vy (r + j) → x' ≠ pixelColumn vx col) →
      pixel (blitRows vx vy r rows b).fb y' x' = pixel b.fb y' x') ∧
    ((blitRows vx vy r rows b).hit = true ↔ b.hit = true ∨
      ∃ (j col : Nat) (hj : j < rows.length), col < 8 ∧ spriteBit rows[j] col = true ∧
        pixel b.fb (pixelRow vy (r + j)) (pixelColumn vx col) = true) := by
  induction rows generalizing r b with
  | nil =>
    refine ⟨fun j col hj => absurd hj (Nat.not_lt_zero _), fun _ _ _ => rfl, ?_⟩
    exact ⟨.inl, fun h => h.elim id fun ⟨j, col, hj, _⟩ => absurd hj (Nat.not_lt_zero _)⟩
  | cons row rows ih =>
    simp only [List.length_cons] at hr ⊢
    obtain ⟨row1, row2, row3⟩ := blitRow_spec vx (pixelRow vy r) row 0 8 b (Nat.le_refl _)
    obtain ⟨ih1, ih2, ih3⟩ :=
      ih (r + 1) (blitRow vx (pixelRow vy r) row 0 8 b) (by omega)
    have hne : ∀ j, j < rows.length → pixelRow vy (r + 1 + j) ≠ pixelRow vy r :=
      fun j h e => absurd (pixelRow_inj (by omega) (by omega) e) (by omega)
    refine ⟨fun j col hj hc => ?_, fun y' x' hx => ?_, ?_⟩
    · rw [blitRows]
      cases j with
      | zero =>
        simp only [Nat.add_zero, List.getElem_cons_zero]
        rw [ih2 _ _ fun j' c h1 _ e => absurd e.symm (hne j' h1),
          row1 col (Nat.zero_le _) (by omega)]
      | succ j =>
        simp only [List.getElem_cons_succ, ← Nat.add_assoc, Nat.add_right_comm r j 1]
        rw [ih1 j col (by omega) hc, row2 _ _ fun e => absurd e (hne j (by omega))]
    · rw [blitRows, ih2 _ _ fun j c h1 h2 e =>
          hx (j + 1) c (by omega) h2 (by rw [e]; congr 1; omega),
        row2 _ _ fun e j _ h2 => hx 0 j (Nat.succ_pos _) (by omega) e]
    · rw [blitRows, ih3, row3]
      have hpix : ∀ j col, j < rows.length →
          pixel (blitRow vx (pixelRow vy r) row 0 8 b).fb (pixelRow vy (r + 1 + j))
            (pixelColumn vx col) = pixel b.fb (pixelRow vy (r + 1 + j)) (pixelColumn vx col) :=
        fun j col h => row2 _ _ fun e => absurd e (hne j h)
      constructor
      · rintro ((h | ⟨c, _, h2, h3, h4⟩) | ⟨j, c, hj, hc, h3, h4⟩)
        · exact .inl h
        · exact .inr ⟨0, c, Nat.succ_pos _, by omega, h3, h4⟩
        · refine .inr ⟨j + 1, c, by omega, hc, h3, ?_⟩
          rw [hpix j c hj] at h4
          rwa [show r + (j + 1) = r + 1 + j by omega]
      · rintro (h | ⟨j, c, hj, hc, h3, h4⟩)
        · exact .inl (.inl h)
        · cases j with
          | zero => exact .inl (.inr ⟨c, Nat.zero_le _, by omega, h3, h4⟩)
          | succ j =>
            refine .inr ⟨j, c, by omega, hc, h3, ?_⟩
            rw [hpix j c (by omega)]
            rwa [show r + (j + 1) = r + 1 + j by omega] at h4

end Sys2Proof.Machine
end

