-- ==== Sys2Proof/Laws/Exec.lean ====
section
/-! SUPPORT. What the instructions with more than one outcome can answer: the inversion lemmas that the
proofs cite in place of unfolding a meaning. -/

namespace Sys2Proof.Machine

/-- call pushes and jumps, or raises StackOverflow (R142). -/
theorem execCall_next {nnn : Nat} {s t : State} (h : exec (.call nnn) s = .next t) :
    (∃ hs : s.sp.val < 16, t = (s.push (s.pc + 2) hs).setPc (addressOperand nnn)) ∨
    (s.sp.val = 16 ∧ t = s.raise (.stackOverflow s.pc)) := by
  simp only [exec, execCall] at h
  split at h <;> cases h
  · exact .inl ⟨_, rfl⟩
  · exact .inr ⟨by omega, rfl⟩

/-- bcd stores its digits, or raises the data fault (R183). -/
theorem execBcd_next {x : Reg} {s t : State} (h : exec (.bcd x) s = .next t) :
    (0xFFF < s.i.toNat + 2 ∧ t = s.raise (.addressData (max s.i.toNat 0x1000) s.pc)) ∨
    (s.i.toNat + 2 ≤ 0xFFF ∧ t = (s.storeBytes (s.dataAddr 0) (bcdDigits (s.getV x))).advance) := by
  rcases State.guardData_next h with ⟨_, h2, ht⟩ | ⟨h1, ht⟩
  · exact .inl ⟨by omega, ht⟩
  · exact .inr ⟨by omega, ht⟩

/-- store-regs stores its registers, or raises the data fault (R184). -/
theorem execStoreRegs_next {x : Reg} {s t : State} (h : exec (.storeRegs x) s = .next t) :
    (0xFFF < s.i.toNat + x.val ∧ t = s.raise (.addressData (max s.i.toNat 0x1000) s.pc)) ∨
    (s.i.toNat + x.val ≤ 0xFFF ∧ t = (s.storeBytes (s.dataAddr 0) (s.regsUpTo x)).advance) := by
  rcases State.guardData_next h with ⟨_, h2, ht⟩ | ⟨h1, ht⟩ <;> simp only [regCount] at *
  · exact .inl ⟨by omega, ht⟩
  · exact .inr ⟨by omega, ht⟩

/-- load-regs loads its registers, or raises the data fault (R185). -/
theorem execLoadRegs_next {x : Reg} {s t : State} (h : exec (.loadRegs x) s = .next t) :
    (0xFFF < s.i.toNat + x.val ∧ t = s.raise (.addressData (max s.i.toNat 0x1000) s.pc)) ∨
    (s.i.toNat + x.val ≤ 0xFFF ∧
      t = (s.loadBytes 0 (s.readBytes (s.dataAddr 0) (regCount x))).advance) := by
  rcases State.guardData_next h with ⟨_, h2, ht⟩ | ⟨h1, ht⟩ <;> simp only [regCount] at *
  · exact .inl ⟨by omega, ht⟩
  · exact .inr ⟨by omega, ht⟩

/-- draw draws its sprite, or raises the data fault (R192). -/
theorem execDraw_next {x y : Reg} {n : Nat} {s t : State} (h : exec (.draw x y n) s = .next t) :
    (0 < n ∧ 0xFFF < s.i.toNat + n - 1 ∧
      t = s.raise (.addressData (max s.i.toNat 0x1000) s.pc)) ∨
    ((n = 0 ∨ s.i.toNat + n - 1 ≤ 0xFFF) ∧
      t = (s.finishDraw (drawSprite (s.getV x) (s.getV y)
        (s.readBytes (s.dataAddr 0) n) s.fb)).advance) :=
  State.guardData_next h

/-- A register value names a logical key iff it is at most 0x0F (R200). -/
theorem keyOperand_cases (b : Byte) :
    (∃ k : Key, k.val = b.toNat ∧ keyOperand b = some k) ∨ (0x0F < b.toNat ∧ keyOperand b = none) := by
  by_cases h : b.toNat < 16
  · exact .inl ⟨⟨b.toNat, h⟩, rfl, dif_pos h⟩
  · exact .inr ⟨by omega, dif_neg h⟩

/-- skip-key-pressed takes a sample and skips, or raises InvalidKey (R200). -/
theorem execSkipKeyPressed_next {x : Reg} {s t : State}
    (h : exec (.skipKeyPressed x) s = .next t) :
    ((s.getV x).toNat ≤ 0x0F ∧
      t = s.afterKeys.skipIf (s.keySample.getLsbD (s.getV x).toNat)) ∨
    (0x0F < (s.getV x).toNat ∧ t = s.raise (.invalidKey (s.getV x) s.pc)) := by
  rcases keyOperand_cases (s.getV x) with ⟨k, hk, he⟩ | ⟨hk, he⟩ <;>
    simp only [exec, execSkipKeyPressed, he] at h <;> cases h
  · exact .inl ⟨by omega, by rw [hk]⟩
  · exact .inr ⟨hk, rfl⟩

/-- skip-key-not-pressed takes a sample and skips, or raises InvalidKey (R201). -/
theorem execSkipKeyNotPressed_next {x : Reg} {s t : State}
    (h : exec (.skipKeyNotPressed x) s = .next t) :
    ((s.getV x).toNat ≤ 0x0F ∧
      t = s.afterKeys.skipIf (!s.keySample.getLsbD (s.getV x).toNat)) ∨
    (0x0F < (s.getV x).toNat ∧ t = s.raise (.invalidKey (s.getV x) s.pc)) := by
  rcases keyOperand_cases (s.getV x) with ⟨k, hk, he⟩ | ⟨hk, he⟩ <;>
    simp only [exec, execSkipKeyNotPressed, he] at h <;> cases h
  · exact .inl ⟨by omega, by rw [hk]⟩
  · exact .inr ⟨hk, rfl⟩

/-- wait-key writes a key and changes the input record, or has no next state (R202, R128). -/
theorem execWaitKey_next {x : Reg} {s t : State} (h : exec (.waitKey x) s = .next t) :
    ∃ (k : Key) (inp : Inputs),
      t = (({ s with inputs := inp } : State).setV x (keyByte k)).advance := by
  simp only [exec, execWaitKey] at h
  split at h <;> cases h
  · exact ⟨_, _, rfl⟩
  · exact ⟨_, _, rfl⟩

/-- rand writes a register and changes the input record (R172). -/
theorem execRand_next {x : Reg} {kk : Byte} {s t : State} (h : exec (.rand x kk) s = .next t) :
    t = (({ s with inputs := s.afterRand.inputs } : State).setV x (s.randSample &&& kk)).advance := by
  cases h
  rw [State.afterRand_eq]

end Sys2Proof.Machine
end

