-- ==== Sys2Proof/Laws/PerInstr.lean ====
section
/-! SUPPORT. The family EncodeRow: the canonical word of a well-formed instruction selects the
instruction's own row of the opcode map (30_encoding.md R93, R102), one lemma per constructor. -/

namespace Sys2Proof.Laws.EncodeRow

/-- The canonical word of a well-formed instruction selects the instruction's row. -/
def Statement (i : Instr) : Prop := i.wellFormed = true → i.row.selects (encode i)

theorem clearScreen : Statement .clearScreen := fun _ => by unfold OpcodeRow.selects; decide

theorem ret : Statement .ret := fun _ => by unfold OpcodeRow.selects; decide

theorem jump (nnn : Nat) : Statement (.jump nnn) := by
  intro h
  have hn : nnn < 0x1000 := by simpa [Instr.wellFormed, addressFits] using h
  have ht := toNat_formatA 0x1 nnn (by decide) hn
  refine (selects_F000 _ 0x1 (by decide)).2 ?_
  all_goals simp only [encode, opGroup, bits, ht]
  all_goals omega

theorem call (nnn : Nat) : Statement (.call nnn) := by
  intro h
  have hn : nnn < 0x1000 := by simpa [Instr.wellFormed, addressFits] using h
  have ht := toNat_formatA 0x2 nnn (by decide) hn
  refine (selects_F000 _ 0x2 (by decide)).2 ?_
  all_goals simp only [encode, opGroup, bits, ht]
  all_goals omega

theorem skipEqImm (x : Reg) (kk : Byte) : Statement (.skipEqImm x kk) := by
  intro _
  have := kk.isLt
  have := x.isLt
  have ht := toNat_formatXK 0x3 x kk (by decide)
  refine (selects_F000 _ 0x3 (by decide)).2 ?_
  all_goals simp only [encode, opGroup, bits, ht]
  all_goals omega

theorem skipNeImm (x : Reg) (kk : Byte) : Statement (.skipNeImm x kk) := by
  intro _
  have := kk.isLt
  have := x.isLt
  have ht := toNat_formatXK 0x4 x kk (by decide)
  refine (selects_F000 _ 0x4 (by decide)).2 ?_
  all_goals simp only [encode, opGroup, bits, ht]
  all_goals omega

theorem skipEqReg (x y : Reg) : Statement (.skipEqReg x y) := by
  intro _
  have := x.isLt
  have := y.isLt
  have ht := toNat_formatXYN 0x5 x y 0x0 (by decide) (by decide)
  refine (selects_F000 _ 0x5 (by decide)).2 ?_
  all_goals simp only [encode, opGroup, bits, ht]
  all_goals omega

theorem setImm (x : Reg) (kk : Byte) : Statement (.setImm x kk) := by
  intro _
  have := kk.isLt
  have := x.isLt
  have ht := toNat_formatXK 0x6 x kk (by decide)
  refine (selects_F000 _ 0x6 (by decide)).2 ?_
  all_goals simp only [encode, opGroup, bits, ht]
  all_goals omega

theorem addImm (x : Reg) (kk : Byte) : Statement (.addImm x kk) := by
  intro _
  have := kk.isLt
  have := x.isLt
  have ht := toNat_formatXK 0x7 x kk (by decide)
  refine (selects_F000 _ 0x7 (by decide)).2 ?_
  all_goals simp only [encode, opGroup, bits, ht]
  all_goals omega

theorem move (x y : Reg) : Statement (.move x y) := by
  intro _
  have := x.isLt
  have := y.isLt
  have ht := toNat_formatXYN 0x8 x y 0x0 (by decide) (by decide)
  refine (selects_F00F _ 0x8 0x0 (by decide) (by decide)).2 ⟨?_, ?_⟩
  all_goals simp only [encode, opGroup, opN, bits, ht]
  all_goals omega

theorem or (x y : Reg) : Statement (.or x y) := by
  intro _
  have := x.isLt
  have := y.isLt
  have ht := toNat_formatXYN 0x8 x y 0x1 (by decide) (by decide)
  refine (selects_F00F _ 0x8 0x1 (by decide) (by decide)).2 ⟨?_, ?_⟩
  all_goals simp only [encode, opGroup, opN, bits, ht]
  all_goals omega

theorem and (x y : Reg) : Statement (.and x y) := by
  intro _
  have := x.isLt
  have := y.isLt
  have ht := toNat_formatXYN 0x8 x y 0x2 (by decide) (by decide)
  refine (selects_F00F _ 0x8 0x2 (by decide) (by decide)).2 ⟨?_, ?_⟩
  all_goals simp only [encode, opGroup, opN, bits, ht]
  all_goals omega

theorem xor (x y : Reg) : Statement (.xor x y) := by
  intro _
  have := x.isLt
  have := y.isLt
  have ht := toNat_formatXYN 0x8 x y 0x3 (by decide) (by decide)
  refine (selects_F00F _ 0x8 0x3 (by decide) (by decide)).2 ⟨?_, ?_⟩
  all_goals simp only [encode, opGroup, opN, bits, ht]
  all_goals omega

theorem addReg (x y : Reg) : Statement (.addReg x y) := by
  intro _
  have := x.isLt
  have := y.isLt
  have ht := toNat_formatXYN 0x8 x y 0x4 (by decide) (by decide)
  refine (selects_F00F _ 0x8 0x4 (by decide) (by decide)).2 ⟨?_, ?_⟩
  all_goals simp only [encode, opGroup, opN, bits, ht]
  all_goals omega

theorem sub (x y : Reg) : Statement (.sub x y) := by
  intro _
  have := x.isLt
  have := y.isLt
  have ht := toNat_formatXYN 0x8 x y 0x5 (by decide) (by decide)
  refine (selects_F00F _ 0x8 0x5 (by decide) (by decide)).2 ⟨?_, ?_⟩
  all_goals simp only [encode, opGroup, opN, bits, ht]
  all_goals omega

theorem shr (x : Reg) : Statement (.shr x) := by
  intro _
  have := x.isLt
  have ht := toNat_formatXYN 0x8 x 0 0x6 (by decide) (by decide)
  refine (selects_F00F _ 0x8 0x6 (by decide) (by decide)).2 ⟨?_, ?_⟩
  all_goals simp only [encode, opGroup, opN, bits, ht]
  all_goals omega

theorem subn (x y : Reg) : Statement (.subn x y) := by
  intro _
  have := x.isLt
  have := y.isLt
  have ht := toNat_formatXYN 0x8 x y 0x7 (by decide) (by decide)
  refine (selects_F00F _ 0x8 0x7 (by decide) (by decide)).2 ⟨?_, ?_⟩
  all_goals simp only [encode, opGroup, opN, bits, ht]
  all_goals omega

theorem shl (x : Reg) : Statement (.shl x) := by
  intro _
  have := x.isLt
  have ht := toNat_formatXYN 0x8 x 0 0xE (by decide) (by decide)
  refine (selects_F00F _ 0x8 0xe (by decide) (by decide)).2 ⟨?_, ?_⟩
  all_goals simp only [encode, opGroup, opN, bits, ht]
  all_goals omega

theorem skipNeReg (x y : Reg) : Statement (.skipNeReg x y) := by
  intro _
  have := x.isLt
  have := y.isLt
  have ht := toNat_formatXYN 0x9 x y 0x0 (by decide) (by decide)
  refine (selects_F000 _ 0x9 (by decide)).2 ?_
  all_goals simp only [encode, opGroup, bits, ht]
  all_goals omega

theorem setIndex (nnn : Nat) : Statement (.setIndex nnn) := by
  intro h
  have hn : nnn < 0x1000 := by simpa [Instr.wellFormed, addressFits] using h
  have ht := toNat_formatA 0xA nnn (by decide) hn
  refine (selects_F000 _ 0xa (by decide)).2 ?_
  all_goals simp only [encode, opGroup, bits, ht]
  all_goals omega

theorem jumpOffset (nnn : Nat) : Statement (.jumpOffset nnn) := by
  intro h
  have hn : nnn < 0x1000 := by simpa [Instr.wellFormed, addressFits] using h
  have ht := toNat_formatA 0xB nnn (by decide) hn
  refine (selects_F000 _ 0xb (by decide)).2 ?_
  all_goals simp only [encode, opGroup, bits, ht]
  all_goals omega

theorem rand (x : Reg) (kk : Byte) : Statement (.rand x kk) := by
  intro _
  have := kk.isLt
  have := x.isLt
  have ht := toNat_formatXK 0xC x kk (by decide)
  refine (selects_F000 _ 0xc (by decide)).2 ?_
  all_goals simp only [encode, opGroup, bits, ht]
  all_goals omega

theorem draw (x y : Reg) (n : Nat) : Statement (.draw x y n) := by
  intro h
  have hn : n < 16 := by simpa [Instr.wellFormed, rowCountFits] using h
  have := x.isLt
  have := y.isLt
  have ht := toNat_formatXYN 0xD x y n (by decide) hn
  refine (selects_F000 _ 0xd (by decide)).2 ?_
  all_goals simp only [encode, opGroup, bits, ht]
  all_goals omega

theorem skipKeyPressed (x : Reg) : Statement (.skipKeyPressed x) := by
  intro _
  have := x.isLt
  have ht := toNat_formatX 0xE x 0x9E (by decide) (by decide)
  refine (selects_F00F _ 0xe 0xe (by decide) (by decide)).2 ⟨?_, ?_⟩
  all_goals simp only [encode, opGroup, opN, bits, ht]
  all_goals omega

theorem skipKeyNotPressed (x : Reg) : Statement (.skipKeyNotPressed x) := by
  intro _
  have := x.isLt
  have ht := toNat_formatX 0xE x 0xA1 (by decide) (by decide)
  refine (selects_F00F _ 0xe 0x1 (by decide) (by decide)).2 ⟨?_, ?_⟩
  all_goals simp only [encode, opGroup, opN, bits, ht]
  all_goals omega

theorem getDelay (x : Reg) : Statement (.getDelay x) := by
  intro _
  have := x.isLt
  have ht := toNat_formatX 0xF x 0x07 (by decide) (by decide)
  refine (selects_F0FF _ 0xf 0x7 (by decide) (by decide)).2 ⟨?_, ?_⟩
  all_goals simp only [encode, opGroup, bits, ht]
  all_goals omega

theorem waitKey (x : Reg) : Statement (.waitKey x) := by
  intro _
  have := x.isLt
  have ht := toNat_formatX 0xF x 0x0A (by decide) (by decide)
  refine (selects_F0FF _ 0xf 0xa (by decide) (by decide)).2 ⟨?_, ?_⟩
  all_goals simp only [encode, opGroup, bits, ht]
  all_goals omega

theorem setDelay (x : Reg) : Statement (.setDelay x) := by
  intro _
  have := x.isLt
  have ht := toNat_formatX 0xF x 0x15 (by decide) (by decide)
  refine (selects_F0FF _ 0xf 0x15 (by decide) (by decide)).2 ⟨?_, ?_⟩
  all_goals simp only [encode, opGroup, bits, ht]
  all_goals omega

theorem setSound (x : Reg) : Statement (.setSound x) := by
  intro _
  have := x.isLt
  have ht := toNat_formatX 0xF x 0x18 (by decide) (by decide)
  refine (selects_F0FF _ 0xf 0x18 (by decide) (by decide)).2 ⟨?_, ?_⟩
  all_goals simp only [encode, opGroup, bits, ht]
  all_goals omega

theorem addIndex (x : Reg) : Statement (.addIndex x) := by
  intro _
  have := x.isLt
  have ht := toNat_formatX 0xF x 0x1E (by decide) (by decide)
  refine (selects_F0FF _ 0xf 0x1e (by decide) (by decide)).2 ⟨?_, ?_⟩
  all_goals simp only [encode, opGroup, bits, ht]
  all_goals omega

theorem spriteAddr (x : Reg) : Statement (.spriteAddr x) := by
  intro _
  have := x.isLt
  have ht := toNat_formatX 0xF x 0x29 (by decide) (by decide)
  refine (selects_F0FF _ 0xf 0x29 (by decide) (by decide)).2 ⟨?_, ?_⟩
  all_goals simp only [encode, opGroup, bits, ht]
  all_goals omega

theorem bcd (x : Reg) : Statement (.bcd x) := by
  intro _
  have := x.isLt
  have ht := toNat_formatX 0xF x 0x33 (by decide) (by decide)
  refine (selects_F0FF _ 0xf 0x33 (by decide) (by decide)).2 ⟨?_, ?_⟩
  all_goals simp only [encode, opGroup, bits, ht]
  all_goals omega

theorem storeRegs (x : Reg) : Statement (.storeRegs x) := by
  intro _
  have := x.isLt
  have ht := toNat_formatX 0xF x 0x55 (by decide) (by decide)
  refine (selects_F0FF _ 0xf 0x55 (by decide) (by decide)).2 ⟨?_, ?_⟩
  all_goals simp only [encode, opGroup, bits, ht]
  all_goals omega

theorem loadRegs (x : Reg) : Statement (.loadRegs x) := by
  intro _
  have := x.isLt
  have ht := toNat_formatX 0xF x 0x65 (by decide) (by decide)
  refine (selects_F0FF _ 0xf 0x65 (by decide) (by decide)).2 ⟨?_, ?_⟩
  all_goals simp only [encode, opGroup, bits, ht]
  all_goals omega

end Sys2Proof.Laws.EncodeRow
end

