-- ==== Sys2Proof/Tests/Slice0.lean ====
section
/-! SUPPORT. The model's own tests and witnesses.  Every expected value is copied from the spec: the
vectors of spec/95_test_vectors.md (their ids stand in the docstrings) or the encodings of
spec/30_encoding.md.  A `witness_` theorem shows a state and operands that meet the hypotheses of the
statement it is named after. -/

namespace Sys2Proof.Tests

open Sys2Proof Sys2Proof.Machine

/-! ### Helpers -/

/-- What `f` reads off the next state of an outcome. -/
def after {α : Type} (o : Host.Outcome State Fault Refusal) (f : State → α) : Option α :=
  match o with
  | .next s => some (f s)
  | .fault _ => none
  | .refused _ => none

/-- What `after` reads off is what a next state holds. -/
theorem of_after {α : Type} {o : Host.Outcome State Fault Refusal} {f : State → α} {a : α}
    (h : after o f = some a) : ∃ t, o = .next t ∧ f t = a := by
  cases o with
  | next t => exact ⟨t, rfl, Option.some.inj h⟩
  | fault _ => cases h
  | refused _ => cases h

/-- One cycle that runs the word `w` in the state `s`. -/
def cycleOf (w : Nat) (s : State) : Host.Outcome State Fault Refusal := step (s.withFetchWord 16 w)

/-- Reset with `V[1] = a` and `V[2] = b`. -/
def regs12 (a b : Byte) : State := (State.reset.setV 1 a).setV 2 b

/-- Reset with `I = w`. -/
def indexAt (w : Word) : State := State.reset.setI w

/-- Reset with `SP = n`. -/
def depth (n : Fin 17) : State := { State.reset with sp := n }

/-- Reset with the given samples of `keys` to come, and an idle keypad after them. -/
def keysToCome (ks : List (BitVec 16)) : State :=
  { State.reset with
    inputs := { Inputs.reset with keys := ks.map (fun k => ⟨k, 0⟩), keypad := .idle } }

/-- Reset with one listed sample of `rand`. -/
def randToCome (b : Byte) : State :=
  { State.reset with inputs := { Inputs.reset with rands := [b] } }

/-- Reset with the timers set. -/
def timers (d t : Byte) : State := (State.reset.setDT d).setST t

/-- Reset with the one pixel `(0, 0)` on. -/
def cornerOn : State := State.reset.setFB (setPixel State.reset.fb 0 0 true)

/-- Reset with `stop` already risen. -/
def stopRisen : State := { State.reset with inputs := { Inputs.reset with stop := some 0 } }

/-! ### WellFormed: each check refuses an ill-formed term and accepts the largest well-formed one -/

theorem test_wellFormed_jump_refuses_13_bits : (Instr.jump 0x1000).wellFormed = false := by decide
theorem test_wellFormed_call_refuses_13_bits : (Instr.call 0x1000).wellFormed = false := by decide
theorem test_wellFormed_setIndex_refuses_13_bits : (Instr.setIndex 0x1000).wellFormed = false := by
  decide
theorem test_wellFormed_jumpOffset_refuses_13_bits : (Instr.jumpOffset 0x1000).wellFormed = false := by
  decide
theorem test_wellFormed_draw_refuses_16_rows : (Instr.draw 0 0 16).wellFormed = false := by decide
theorem test_wellFormed_accepts_the_bounds :
    (Instr.jump 0xFFF).wellFormed = true ∧ (Instr.call 0xFFF).wellFormed = true ∧
    (Instr.setIndex 0xFFF).wellFormed = true ∧ (Instr.jumpOffset 0xFFF).wellFormed = true ∧
    (Instr.draw 15 15 15).wellFormed = true := by decide

/-! ### Decode: each constructor by a word written out bit by bit from R94 to R98 -/

/-- R94. -/
theorem test_decode_group0 :
    decodeWord 0b0000000011100000 = .ok .clearScreen ∧
    decodeWord 0b0000000011101110 = .ok .ret := by decide

/-- R95: jump, call, jump-offset, set-index. -/
theorem test_decode_addresses :
    decodeWord 0b0001000000010010 = .ok (.jump 0x012) ∧
    decodeWord 0b0010001100000000 = .ok (.call 0x300) ∧
    decodeWord 0b1011111111111110 = .ok (.jumpOffset 0xFFE) ∧
    decodeWord 0b1010001011110000 = .ok (.setIndex 0x2F0) := by decide

/-- R95, R97: the six skips; the last nibble in groups 5 and 9 and bits 7:4 in group E are ignored. -/
theorem test_decode_skips :
    decodeWord 0b0011000100010100 = .ok (.skipEqImm 1 0x14) ∧
    decodeWord 0b0100000100010101 = .ok (.skipNeImm 1 0x15) ∧
    decodeWord 0b0101000100100001 = .ok (.skipEqReg 1 2) ∧
    decodeWord 0b1001000100100101 = .ok (.skipNeReg 1 2) ∧
    decodeWord 0b1110000100001110 = .ok (.skipKeyPressed 1) ∧
    decodeWord 0b1110111110100001 = .ok (.skipKeyNotPressed 15) := by decide

/-- R95, R96: the two loads of a register, add-imm, rand and draw. -/
theorem test_decode_immediates_and_draw :
    decodeWord 0b0110101000101100 = .ok (.setImm 10 0x2C) ∧
    decodeWord 0b0111111100000011 = .ok (.addImm 15 0x03) ∧
    decodeWord 0b1100000100001111 = .ok (.rand 1 0x0F) ∧
    decodeWord 0b1101111100011010 = .ok (.draw 15 1 10) := by decide

/-- R96, R99: group 8, where shr and shl ignore `y`. -/
theorem test_decode_group8 :
    decodeWord 0b1000101011110000 = .ok (.move 10 15) ∧
    decodeWord 0b1000000100100001 = .ok (.or 1 2) ∧
    decodeWord 0b1000000100100010 = .ok (.and 1 2) ∧
    decodeWord 0b1000000100100011 = .ok (.xor 1 2) ∧
    decodeWord 0b1000000100100100 = .ok (.addReg 1 2) ∧
    decodeWord 0b1000000100100101 = .ok (.sub 1 2) ∧
    decodeWord 0b1000101010110110 = .ok (.shr 10) ∧
    decodeWord 0b1000000100100111 = .ok (.subn 1 2) ∧
    decodeWord 0b1000101010111110 = .ok (.shl 10) := by decide

/-- R98. -/
theorem test_decode_groupF :
    decodeWord 0b1111000100000111 = .ok (.getDelay 1) ∧
    decodeWord 0b1111001100001010 = .ok (.waitKey 3) ∧
    decodeWord 0b1111000000010101 = .ok (.setDelay 0) ∧
    decodeWord 0b1111000000011000 = .ok (.setSound 0) ∧
    decodeWord 0b1111001000011110 = .ok (.addIndex 2) ∧
    decodeWord 0b1111000100101001 = .ok (.spriteAddr 1) ∧
    decodeWord 0b1111000100110011 = .ok (.bcd 1) ∧
    decodeWord 0b1111001001010101 = .ok (.storeRegs 2) ∧
    decodeWord 0b1111111101100101 = .ok (.loadRegs 15) := by decide

/-- R100: T-DEC-5, T-DEC-9, T-DEC-12, T-DEC-15. -/
theorem test_decode_refuses_unknown_words :
    decodeWord 0x00E1 = .error (.unknownOpcode 0x00E1) ∧
    decodeWord 0x8128 = .error (.unknownOpcode 0x8128) ∧
    decodeWord 0xE19F = .error (.unknownOpcode 0xE19F) ∧
    decodeWord 0xF975 = .error (.unknownOpcode 0xF975) := by decide

/-- R90: one byte is no instruction. -/
theorem test_decode_refuses_one_byte : decode [0x12] = .error .truncated := by decide

/-- R61: the first byte is the more significant one. -/
theorem test_decode_is_big_endian : decode [0x12, 0x34, 0x56] = .ok (.jump 0x234, [0x56]) := by decide

/-- R102. -/
theorem test_encode_gives_the_canonical_spelling :
    encode .ret = 0x00EE ∧ encode (.shl 10) = 0x8A0E ∧ encode (.skipKeyPressed 1) = 0xE19E ∧
    encode (.draw 13 1 5) = 0xDD15 ∧ encode (.loadRegs 2) = 0xF265 := by decide

/-- R93 to R98: no word selects two rows.  Two rows with a common word agree on the common mask. -/
theorem test_no_two_opcode_rows_overlap :
    opcodeRows.Pairwise (fun r q => r.pattern &&& q.mask ≠ q.pattern &&& r.mask) := by decide

/-! ### Control transfer -/

/-- S1. -/
theorem test_jump : after (cycleOf 0x1012 State.reset) (·.pc) = some 0x012 := by decide

/-- T-CALL-1. -/
theorem test_call :
    after (cycleOf 0x2300 State.reset) (fun t => (t.getSlot 0, t.sp, t.pc)) = some (0x202, 1, 0x300) := by
  decide

/-- T-CALL-3. -/
theorem test_call_overflows :
    after (cycleOf 0x2300 (depth 16)) (fun t => (t.run, t.sp, t.pc))
      = some (.faulted (.stackOverflow 0x200), 16, 0x200) := by decide

/-- T-RET-2: an empty stack reads slot 0 without a fault. -/
theorem test_return_on_an_empty_stack :
    after (cycleOf 0x00EE { State.reset with stack := State.reset.stack.set 0 0x0ABC })
      (fun t => (t.pc, t.sp, t.run)) = some (0x0ABC, 0, .running) := by decide

/-- T-RET-4. -/
theorem test_return_from_a_full_stack :
    after (cycleOf 0x00EE { depth 16 with stack := State.reset.stack.set 15 0x0456 })
      (fun t => (t.pc, t.sp)) = some (0x0456, 15) := by decide

/-- T-JOF-2: no mask. -/
theorem test_jumpOffset_is_not_masked :
    after (cycleOf 0xBFFF (State.reset.setV 0 0xFF)) (·.pc) = some 0x10FE := by decide

/-- T-JOF-3: bits 11:8 name no register. -/
theorem test_jumpOffset_uses_V0 :
    after (cycleOf 0xB2FF ((State.reset.setV 0 0x01).setV 2 0x77)) (·.pc) = some 0x300 := by decide

/-! ### Conditional skips -/

/-- S2, T-SKP-1. -/
theorem test_skipEqImm :
    after (cycleOf 0x3114 (regs12 0x14 0)) (·.pc) = some 0x204 ∧
    after (cycleOf 0x3114 (regs12 0x15 0)) (·.pc) = some 0x202 := by decide

/-- T-SKP-3, T-SKP-4. -/
theorem test_skipNeImm :
    after (cycleOf 0x4114 (regs12 0x14 0)) (·.pc) = some 0x202 ∧
    after (cycleOf 0x4115 (regs12 0x14 0)) (·.pc) = some 0x204 := by decide

/-- T-SKP-5, T-SKP-6. -/
theorem test_skipEqReg :
    after (cycleOf 0x5120 (regs12 7 7)) (·.pc) = some 0x204 ∧
    after (cycleOf 0x5120 (regs12 7 8)) (·.pc) = some 0x202 := by decide

/-- T-SKP-8, T-DEC-8. -/
theorem test_skipNeReg :
    after (cycleOf 0x9120 (regs12 7 8)) (·.pc) = some 0x204 ∧
    after (cycleOf 0x9125 (regs12 0 0)) (·.pc) = some 0x202 := by decide

/-- T-SKP-10: the skip at 0xFFE. -/
theorem test_skip_at_the_end_of_memory :
    after (cycleOf 0x3000 { State.reset with pc := 0xFFE }) (·.pc) = some 0x1002 := by decide

/-! ### Register arithmetic -/

/-- T-ALU-1. -/
theorem test_setImm :
    after (cycleOf 0x6A2C State.reset) (fun t => (t.getV 10, t.pc)) = some (0x2C, 0x202) := by decide

/-- T-ALU-3, T-ALU-5. -/
theorem test_addImm_wraps :
    after (cycleOf 0x7120 (regs12 0xF0 0)) (fun t => (t.getV 1, t.getV 15)) = some (0x10, 0) ∧
    after (cycleOf 0x7F03 (State.reset.setV 15 0xFE)) (·.getV 15) = some 0x01 := by decide

/-- T-ALU-7. -/
theorem test_move :
    after (cycleOf 0x8AF0 (State.reset.setV 15 1)) (fun t => (t.getV 10, t.getV 15)) = some (1, 1) := by
  decide

/-- T-ALU-8: VF stays. -/
theorem test_or :
    after (cycleOf 0x8121 ((regs12 0x0F 0xF0).setV 15 1)) (fun t => (t.getV 1, t.getV 15))
      = some (0xFF, 1) := by decide

/-- T-ALU-9. -/
theorem test_and : after (cycleOf 0x8122 (regs12 0x3C 0x0F)) (·.getV 1) = some 0x0C := by decide

/-- T-ALU-10, T-ALU-11. -/
theorem test_xor :
    after (cycleOf 0x8123 (regs12 0x3C 0x0F)) (·.getV 1) = some 0x33 ∧
    after (cycleOf 0x8113 (regs12 0x5A 0)) (·.getV 1) = some 0x00 := by decide

/-- S3, T-ALU-13. -/
theorem test_addReg :
    after (cycleOf 0x8124 (regs12 0xE6 0x1E)) (fun t => (t.getV 1, t.getV 15)) = some (0x04, 1) ∧
    after (cycleOf 0x8124 (regs12 0x7F 0x80)) (fun t => (t.getV 1, t.getV 15)) = some (0xFF, 0) := by
  decide

/-- T-VF-1, T-VF-5, T-VF-7: the result survives in VF, and VF is read before it is written. -/
theorem test_addReg_on_VF :
    after (cycleOf 0x8F24 ((regs12 0 0x20).setV 15 0xF0)) (·.getV 15) = some 0x10 ∧
    after (cycleOf 0x81F4 ((regs12 0xFF 0).setV 15 1)) (fun t => (t.getV 1, t.getV 15))
      = some (0x00, 1) ∧
    after (cycleOf 0x8FF4 (State.reset.setV 15 0x90)) (·.getV 15) = some 0x20 := by decide

/-- S4, T-ALU-16, T-ALU-17. -/
theorem test_sub :
    after (cycleOf 0x8125 (regs12 0x03 0x04)) (fun t => (t.getV 1, t.getV 15)) = some (0xFF, 0) ∧
    after (cycleOf 0x8125 (regs12 0x05 0x05)) (fun t => (t.getV 1, t.getV 15)) = some (0x00, 0) ∧
    after (cycleOf 0x8125 (regs12 0x05 0x03)) (fun t => (t.getV 1, t.getV 15)) = some (0x02, 1) := by
  decide

/-- T-VF-2, T-VF-6. -/
theorem test_sub_on_VF :
    after (cycleOf 0x8F25 ((regs12 0 1).setV 15 3)) (·.getV 15) = some 2 ∧
    after (cycleOf 0x81F5 ((regs12 0x10 0).setV 15 1)) (fun t => (t.getV 1, t.getV 15))
      = some (0x0F, 1) := by decide

/-- T-ALU-19, T-VF-3: the operand is `V[x]`. -/
theorem test_shr :
    after (cycleOf 0x8126 (regs12 0xFF 0x55)) (fun t => (t.getV 1, t.getV 15, t.getV 2))
      = some (0x7F, 1, 0x55) ∧
    after (cycleOf 0x8F06 (State.reset.setV 15 3)) (·.getV 15) = some 1 := by decide

/-- T-ALU-21, T-ALU-22, T-ALU-23. -/
theorem test_subn :
    after (cycleOf 0x8127 (regs12 0x05 0x05)) (fun t => (t.getV 1, t.getV 15)) = some (0x00, 0) ∧
    after (cycleOf 0x8127 (regs12 0x03 0x05)) (fun t => (t.getV 1, t.getV 15)) = some (0x02, 1) ∧
    after (cycleOf 0x8127 (regs12 0x05 0x03)) (fun t => (t.getV 1, t.getV 15)) = some (0xFE, 0) := by
  decide

/-- T-ALU-24, T-ALU-25, T-VF-4. -/
theorem test_shl :
    after (cycleOf 0x812E (regs12 0x7F 0x09)) (fun t => (t.getV 1, t.getV 15, t.getV 2))
      = some (0xFE, 0, 0x09) ∧
    after (cycleOf 0x812E (regs12 0xFF 0x09)) (fun t => (t.getV 1, t.getV 15)) = some (0xFE, 1) ∧
    after (cycleOf 0x8F0E (State.reset.setV 15 0x81)) (·.getV 15) = some 0x02 := by decide

/-- T-ALU-27, T-ALU-29. -/
theorem test_rand :
    after (cycleOf 0xC10F (randToCome 0xB7)) (·.getV 1) = some 0x07 ∧
    after (cycleOf 0xC1FF (randToCome 0xB7)) (fun t => (t.getV 1, t.inputs.rands)) = some (0xB7, []) := by
  decide

/-! ### Index and memory -/

/-- T-IDX-1. -/
theorem test_setIndex : after (cycleOf 0xA2F0 State.reset) (·.i) = some 0x2F0 := by decide

/-- T-IDX-3, T-IDX-4. -/
theorem test_addIndex :
    after (cycleOf 0xF11E ((indexAt 0x0FFF).setV 1 1)) (fun t => (t.i, t.getV 15)) = some (0x1000, 0) ∧
    after (cycleOf 0xF11E ((indexAt 0xFFFF).setV 1 1)) (·.i) = some 0x0000 := by decide

/-- S5, T-IDX-7. -/
theorem test_spriteAddr :
    after (cycleOf 0xF129 (regs12 0x0A 0)) (·.i) = some 0x0032 ∧
    after (cycleOf 0xF129 (regs12 0xFF 0)) (·.i) = some 0x04FB := by decide

/-- S6. -/
theorem test_bcd :
    after (cycleOf 0xF133 ((indexAt 0x300).setV 1 0xA5)) (fun t => t.readBytes 0x300 3)
      = some [1, 6, 5] := by decide

/-- T-BCD-4: nothing is written. -/
theorem test_bcd_faults :
    after (cycleOf 0xF133 ((indexAt 0xFFE).setV 1 0x7B))
      (fun t => (t.run, t.readByte 0xFFE, t.readByte 0xFFF))
      = some (.faulted (.addressData 0x1000 0x200), 0, 0) := by decide

/-- T-STR-1. -/
theorem test_storeRegs :
    after (cycleOf 0xF255 (((((indexAt 0x300).setV 0 0x11).setV 1 0x22).setV 2 0x33).setV 3 0x44))
      (fun t => (t.readBytes 0x300 4, t.i)) = some ([0x11, 0x22, 0x33, 0x00], 0x300) := by decide

/-- T-STR-4. -/
theorem test_storeRegs_faults :
    after (cycleOf 0xFF55 (indexAt 0xFF1)) (fun t => (t.run, t.pc))
      = some (.faulted (.addressData 0x1000 0x200), 0x200) := by decide

/-- T-LDR-1. -/
theorem test_loadRegs :
    after (cycleOf 0xF265 (((indexAt 0x300).storeBytes 0x300 [1, 6, 5, 9]).setV 3 0x77))
      (fun t => (t.getV 0, t.getV 1, t.getV 2, t.getV 3, t.i)) = some (1, 6, 5, 0x77, 0x300) := by decide

/-- T-LDR-2: glyph 0. -/
theorem test_loadRegs_reads_the_font :
    after (cycleOf 0xF165 State.reset) (fun t => (t.getV 0, t.getV 1)) = some (0xF0, 0x90) := by decide

/-! ### Display -/

/-- T-CLS-1. -/
theorem test_clearScreen :
    after (cycleOf 0x00E0 (cornerOn.setV 15 1))
      (fun t => (t.fb, t.history, t.getV 15, t.pc))
      = some (blankScreen, [.present blankScreen], 1, 0x202) := by decide

/-- T-DRW-2: the columns wrap. -/
theorem test_draw_wraps :
    after (cycleOf 0xD011 ((((indexAt 0x300).writeByte 0x300 0xC3).setV 0 62).setV 1 31))
      (fun t => ((List.range 64).filter (fun c => pixel t.fb 31 (Fin.ofNat 64 c)), t.getV 15,
        t.history.length))
      = some ([4, 5, 62, 63], 0, 1) := by decide

/-- The first cycle of T-DRW-5: a collision. -/
theorem test_draw_collides :
    after (cycleOf 0xD011 { (indexAt 0x300).writeByte 0x300 0xC0 with fb := cornerOn.fb })
      (fun t => (pixel t.fb 0 0, pixel t.fb 0 1, t.getV 15)) = some (false, true, 1) := by decide

/-! ### Keypad and timers -/

/-- T-KEY-1, T-KEY-2. -/
theorem test_skipKeyPressed :
    after (cycleOf 0xE19E ((keysToCome [0x0020]).setV 1 5)) (·.pc) = some 0x204 ∧
    after (cycleOf 0xE19E ((keysToCome [0xFFDF]).setV 1 5)) (·.pc) = some 0x202 := by decide

/-- T-KEY-5. -/
theorem test_skipKeyPressed_faults :
    after (cycleOf 0xE19E ((keysToCome [0xFFFF]).setV 1 0x10)) (·.run)
      = some (.faulted (.invalidKey 0x10 0x200)) := by decide

/-- T-KEY-3, T-KEY-4. -/
theorem test_skipKeyNotPressed :
    after (cycleOf 0xE1A1 ((keysToCome [0x0000]).setV 1 5)) (·.pc) = some 0x204 ∧
    after (cycleOf 0xE1A1 ((keysToCome [0x0020]).setV 1 5)) (·.pc) = some 0x202 := by decide

/-- T-KEY-6. -/
theorem test_skipKeyNotPressed_faults :
    after (cycleOf 0xE1A1 ((keysToCome [0x0000]).setV 1 0x15)) (·.run)
      = some (.faulted (.invalidKey 0x15 0x200)) := by decide

/-- T-KEY-7: the hold lasts to the third sample. -/
theorem test_waitKey :
    after (cycleOf 0xF30A (keysToCome [0x0000, 0x0000, 0x0080])) (fun t => (t.getV 3, t.pc))
      = some (0x07, 0x202) := by decide

/-- T-KEY-9: a hang. -/
theorem test_waitKey_hangs :
    exec (.waitKey 3) (keysToCome [0x0000]) = .fault .waitKeyHang := by rfl

/-- T-TMR-3. -/
theorem test_getDelay :
    after (cycleOf 0xF107 ((timers 5 0).setV 1 0x77)) (fun t => (t.getV 1, t.ticks)) = some (0, 5) := by
  decide

/-- T-TMR-1. -/
theorem test_setDelay :
    after (cycleOf 0xF015 (State.reset.setV 0 5)) (fun t => (t.dt, t.ticks, t.pc)) = some (5, 0, 0x202) := by
  decide

/-- The first cycle of T-TMR-4. -/
theorem test_setSound :
    after (cycleOf 0xF018 (State.reset.setV 0 3)) (fun t => (t.st, t.history)) = some (3, []) := by decide

/-! ### The cycle -/

/-- T-TMR-5. -/
theorem test_drain :
    after (cycleOf 0x1200 (timers 2 5)) (fun t => (t.dt, t.st, t.ticks, t.history))
      = some (0, 0, 5, List.replicate 5 .audioTrigger) := by decide

/-- T-CYC-4, T-TMR-8: the stop sample comes first. -/
theorem test_stop :
    after (step { stopRisen with dt := 9 }) (fun t => (t.run, t.dt, t.pc)) = some (.stopped, 9, 0x200) := by
  decide

/-- T-CYC-6: the drain is not undone. -/
theorem test_unknown_opcode :
    after (cycleOf 0x0001 (timers 4 0)) (fun t => (t.run, t.dt, t.ticks, t.pc))
      = some (.faulted (.unknownOpcode 0x0001 0x200), 0, 4, 0x200) := by decide

/-- The second cycles of T-JMP-3 and T-JOF-2. -/
theorem test_fetch_outside_memory :
    after (step { State.reset with pc := 0xFFF }) (·.run)
      = some (.faulted (.addressFetch 0x1000 0x0FFF)) ∧
    after (step { State.reset with pc := 0x10FE }) (·.run)
      = some (.faulted (.addressFetch 0x10FE 0x10FE)) := by decide

/-- The second cycle of T-CYC-2: an odd `pc` is fetched from. -/
theorem test_odd_pc :
    after (cycleOf 0x6A2C { State.reset with pc := 0x203 }) (fun t => (t.getV 10, t.pc))
      = some (0x2C, 0x205) := by decide

/-- R210: the cause numbers. -/
theorem test_cause_codes :
    (Cause.unknownOpcode 0 0).code = 1 ∧ (Cause.addressFetch 0 0).code = 2 ∧
    (Cause.addressData 0 0).code = 3 ∧ (Cause.stackOverflow 0).code = 4 ∧
    (Cause.invalidKey 0 0).code = 5 := by decide

/-! ### Witnesses: for every statement with hypotheses, a state and operands that meet them all -/

/-- A word that every row of the opcode map selects, as `EncodedAs` asks of each row named in a
statement. -/
theorem witness_EncodedAs : ∀ r ∈ opcodeRows, r.pattern &&& r.mask = r.pattern := by decide

theorem witness_DecodeAfterEncodeGivesTheInstruction :
    (Instr.draw 15 15 15).wellFormed = true ∧ (Instr.jump 0xFFF).wellFormed = true := by decide

theorem witness_DecoderFollowsTheOpcodeMap_row :
    (⟨0xF00F, 0x8004⟩ : OpcodeRow) ∈ opcodeRows ∧ (⟨0xF00F, 0x8004⟩ : OpcodeRow).selects 0x8124 :=
  ⟨by decide, by show (0x8124 : Word) &&& 0xF00F = 0x8004; decide⟩

theorem witness_DecoderFollowsTheOpcodeMap_word : decodeWord 0x8124 = .ok (.addReg 1 2) := by decide

theorem witness_DecoderFollowsTheOpcodeMap_unknown :
    (State.reset.withFetchWord 16 0x00E1).fetches ∧
    ∀ r ∈ opcodeRows, ¬ r.selects (State.reset.withFetchWord 16 0x00E1).fetchWord :=
  ⟨⟨by decide, by decide, by decide⟩, by unfold OpcodeRow.selects; decide⟩

/-- A step that stores to memory. -/
theorem witness_StepKeepsMemoryCanonical :
    (((indexAt 0x300).setV 1 0xA5).withFetchWord 16 0xF133).memWf ∧
    ∃ t, cycleOf 0xF133 ((indexAt 0x300).setV 1 0xA5) = .next t ∧ t.readByte 0x300 = 1 :=
  ⟨by unfold State.memWf; decide, of_after (by decide)⟩

/-- A step that reaches the largest `pc`, and one that pushes the largest return address. -/
theorem witness_StepKeepsPcAndStackBounds :
    ((State.reset.setV 0 0xFF).withFetchWord 16 0xBFFF).pcBound ∧
    (∃ t, cycleOf 0xBFFF (State.reset.setV 0 0xFF) = .next t ∧ t.pc = 0x10FE) ∧
    (({ State.reset with pc := 0xFFE } : State).withFetchWord 16 0x2300).pcBound ∧
    ∃ t, cycleOf 0x2300 { State.reset with pc := 0xFFE } = .next t ∧ t.getSlot 0 = 0x1000 :=
  ⟨⟨by decide, by decide⟩, of_after (by decide), ⟨by decide, by decide⟩, of_after (by decide)⟩

/-- A step that stores over the font region. -/
theorem witness_StepKeepsTheFontConfiguration :
    ∃ t, cycleOf 0xF055 (State.reset.setV 0 0xAA) = .next t ∧ t.readByte 0 = 0xAA :=
  of_after (by decide)

theorem witness_CanonicalMemoriesThatReadAlikeAreEqual :
    Memory.wf defaultFont [(0x000, 0x00), (0xFFF, 0x01)] = true ∧
    ∀ a, Memory.read defaultFont [(0x000, 0x00), (0xFFF, 0x01)] a
      = Memory.read defaultFont (Memory.write defaultFont [(0x000, 0x00)] 0xFFF 0x01) a :=
  ⟨by decide, fun a => by
    rw [show Memory.write defaultFont [(0x000, 0x00)] 0xFFF 0x01 = [(0x000, 0x00), (0xFFF, 0x01)] by
      decide]⟩

theorem witness_OnlyClearScreenAndDrawChangeTheFramebuffer :
    (∃ t, exec .clearScreen cornerOn = .next t ∧ decide (t.fb ≠ cornerOn.fb) = true) ∧
    ∃ t, exec (.draw 0 0 1) State.reset = .next t ∧ decide (t.fb ≠ State.reset.fb) = true :=
  ⟨of_after (by decide), of_after (by decide)⟩

theorem witness_OnlyCallAndReturnTouchTheStack :
    (∃ t, exec (.call 0x300) (depth 15) = .next t ∧
      decide (t.sp ≠ 15 ∧ t.getSlot 15 ≠ (depth 15).getSlot 15) = true) ∧
    ∃ t, exec .ret (depth 16) = .next t ∧ decide (t.sp ≠ 16) = true :=
  ⟨of_after (by decide), of_after (by decide)⟩

theorem witness_OnlyTheIndexInstructionsWriteTheIndex :
    (∃ t, exec (.setIndex 0xFFF) State.reset = .next t ∧ decide (t.i ≠ State.reset.i) = true) ∧
    (∃ t, exec (.addIndex 1) (regs12 1 0) = .next t ∧ decide (t.i ≠ State.reset.i) = true) ∧
    ∃ t, exec (.spriteAddr 1) (regs12 1 0) = .next t ∧ decide (t.i ≠ State.reset.i) = true :=
  ⟨of_after (by decide), of_after (by decide), of_after (by decide)⟩

theorem witness_OnlyBcdAndStoreRegsWriteMemory :
    (∃ t, exec (.bcd 1) ((indexAt 0xFFD).setV 1 0xFF) = .next t ∧ t.readByte 0xFFF = 5) ∧
    ∃ t, exec (.storeRegs 15) ((indexAt 0xFF0).setV 15 0x1F) = .next t ∧ t.readByte 0xFFF = 0x1F :=
  ⟨of_after (by decide), of_after (by decide)⟩

theorem witness_OnlyTheTimerInstructionsWriteTheTimers :
    (∃ t, exec (.setDelay 1) (regs12 1 0) = .next t ∧ decide (t.dt ≠ State.reset.dt) = true) ∧
    ∃ t, exec (.setSound 1) (regs12 1 0) = .next t ∧ decide (t.st ≠ State.reset.st) = true :=
  ⟨of_after (by decide), of_after (by decide)⟩

/-- The clause about a changed `DT`, and the one about an instruction that does not use it. -/
theorem witness_DelayTimerHasItsListedWritersAndReaders :
    (∃ t, exec (.setDelay 1) (regs12 1 0) = .next t ∧ decide (t.dt ≠ State.reset.dt) = true) ∧
    (∀ x, Instr.setSound 1 ≠ .getDelay x ∧ Instr.setSound 1 ≠ .setDelay x) ∧
    ∃ t, exec (.setSound 1) (regs12 1 0) = .next t ∧ t.st = 1 :=
  ⟨of_after (by decide), by simp, of_after (by decide)⟩

theorem witness_RegistersChangeOnlyAsTheirWritersSay :
    (∃ t, exec (.setImm 10 0x2C) State.reset = .next t ∧ decide (t.getV 10 ≠ 0) = true) ∧
    (∃ t, exec (.addReg 1 2) (regs12 0x80 0x80) = .next t ∧ decide (t.getV 15 ≠ 0) = true) ∧
    ∃ t, exec (.loadRegs 1) State.reset = .next t ∧ decide (t.getV 1 ≠ 0) = true :=
  ⟨of_after (by decide), of_after (by decide), of_after (by decide)⟩

/-- Each of the three clauses of the statement. -/
theorem witness_ExecuteEmitsOnlyTheListedEvents :
    (∃ t, exec (.jump 0) State.reset = .next t ∧ t.history = []) ∧
    (∃ t, exec .clearScreen State.reset = .next t ∧ t.history = [.present blankScreen]) ∧
    ∃ t, exec (.call 0) (depth 16) = .next t ∧
      t.history = [.halted (.faulted (.stackOverflow 0x200))] :=
  ⟨of_after (by decide), of_after (by decide), of_after (by decide)⟩

theorem witness_OtherInstructionsDoNotReadMemory :
    (∀ x y n, Instr.skipEqImm 1 0 ≠ .draw x y n) ∧
    (∀ x, Instr.skipEqImm 1 0 ≠ .bcd x ∧ Instr.skipEqImm 1 0 ≠ .storeRegs x ∧
      Instr.skipEqImm 1 0 ≠ .loadRegs x) ∧
    ∃ t, exec (.skipEqImm 1 0) State.reset = .next t ∧ t.pc = 0x204 :=
  ⟨by simp, by simp, of_after (by decide)⟩

/-- A hold with one listed sample and a hold with none. -/
theorem witness_OnlyAHeldWaitKeyHasNoNextState :
    ((keysToCome [0x0000]).inputs.keypad = .idle ∧ NoKeyListed (keysToCome [0x0000]).inputs.keys) ∧
    (keysToCome []).inputs.keypad = .idle ∧ NoKeyListed (keysToCome []).inputs.keys := by
  unfold NoKeyListed; decide

/-- A step that ends faulted, for each of the five causes; the two bounds of a fetch fault. -/
theorem witness_EveryFaultHasItsListedCause :
    (∃ t, step { State.reset with pc := 0xFFF } = .next t ∧
      t.run = .faulted (.addressFetch 0x1000 0xFFF)) ∧
    (∃ t, step { State.reset with pc := 0x1000 } = .next t ∧
      t.run = .faulted (.addressFetch 0x1000 0x1000)) ∧
    (∃ t, cycleOf 0x00E1 State.reset = .next t ∧ t.run = .faulted (.unknownOpcode 0x00E1 0x200)) ∧
    (∃ t, cycleOf 0x2300 (depth 16) = .next t ∧ t.run = .faulted (.stackOverflow 0x200)) ∧
    (∃ t, cycleOf 0xE19E (regs12 0x10 0) = .next t ∧ t.run = .faulted (.invalidKey 0x10 0x200)) ∧
    ∃ t, cycleOf 0xD013 (indexAt 0xFFE) = .next t ∧ t.run = .faulted (.addressData 0x1000 0x200) :=
  ⟨of_after (by decide), of_after (by decide), of_after (by decide), of_after (by decide),
    of_after (by decide), of_after (by decide)⟩

/-- The highest address a word is fetched from. -/
theorem witness_StepRunsTheDecodedInstruction :
    let s := ({ State.reset with pc := 0xFFE } : State).withFetchWord 16 0x3000
    s.run = .running ∧ s.inputs.stop ≠ some 0 ∧ s.pc.toNat ≤ 0xFFE ∧
      decode [s.readByte s.pc.toNat, s.readByte (s.pc.toNat + 1)] = .ok (.skipEqImm 0 0, []) := by
  decide

theorem witness_StopSampleEndsTheRun : stopRisen.run = .running ∧ stopRisen.inputs.stop = some 0 := by
  decide

theorem witness_FetchOutsideMemoryFaults :
    (let s : State := { State.reset with pc := 0xFFF }
     s.run = .running ∧ s.inputs.stop ≠ some 0 ∧ 0xFFE < s.pc.toNat) ∧
    (let s : State := { State.reset with pc := 0x1000 }
     s.run = .running ∧ s.inputs.stop ≠ some 0 ∧ 0xFFE < s.pc.toNat) := by
  decide

theorem witness_StoppedAndFaultedAreAbsorbing :
    ({ State.reset with run := .stopped } : State).run ≠ .running ∧
    ({ State.reset with run := .faulted (.stackOverflow 0x200) } : State).run ≠ .running := by decide

theorem witness_GetDelayReadsZeroInEveryCycle :
    ((timers 5 3).withFetchWord 16 0xF107).willRun (.getDelay 1) :=
  ⟨⟨by decide, by decide, by decide⟩, by decide⟩

/-- store-regs V1 at 0x200 stores over the word that follows it. -/
theorem witness_StoredBytesAreFetchedByTheNextCycle :
    (1 : Reg).val = (0 : Reg).val + 1 ∧ (1 : Reg) ≤ 1 ∧ (indexAt 0x202).i.toNat + (1 : Reg).val ≤ 0xFFF ∧
    ∃ t, exec (.storeRegs 1) (indexAt 0x202) = .next t ∧ t.pc.toNat = (indexAt 0x202).dataAddr 0 :=
  ⟨by decide, by decide, by decide, of_after (by decide)⟩

theorem witness_PlacedWordIsTheNextInstruction : (Instr.draw 15 15 15).wellFormed = true := by decide

/-- The font at its highest place, and images of the largest length, of one byte more and of none. -/
theorem witness_BootLoadsGlyphsAndProgram :
    ({ base := 0x1B0, glyphs := defaultGlyphs } : Config.Font).wf = true ∧ defaultFont.wf = true ∧
    (List.replicate 3584 (0x01 : Byte)).length ≤ 3584 ∧
    3584 < (List.replicate 3585 (0x01 : Byte)).length ∧ ([] : List Byte).length ≤ 3584 :=
  ⟨by decide, by decide, List.length_replicate.le, by rw [List.length_replicate]; decide, by decide⟩

theorem witness_JumpSetsThePc : (0xFFF : Nat) < 0x1000 ∧ (0 : Nat) < 0x1000 := by decide

/-- The last call that fits and the first that does not. -/
theorem witness_CallPushesOrOverflows :
    (0xFFF : Nat) < 0x1000 ∧ (depth 15).sp.val = (15 : Fin 16).val ∧ (depth 16).sp.val = 16 := by decide

theorem witness_ReturnOnAnEmptyStackIsNoFault :
    (depth 0).run = .running ∧ (depth 0).sp.val = 0 := by decide

theorem witness_ReturnUndoesCall :
    (depth 15).sp.val = (15 : Fin 16).val ∧ (depth 0).sp.val = (0 : Fin 16).val := by decide

theorem witness_JumpOffsetAddsVZeroUnmasked : (0xFFF : Nat) < 0x1000 := by decide

/-- The two input records of the statement. -/
theorem witness_RandMasksOneSample :
    (randToCome 0xB7).inputs.rands = 0xB7 :: [] ∧ State.reset.inputs.rands = [] := by decide

theorem witness_SetIndexLoadsTheAddress : (0xFFF : Nat) < 0x1000 := by decide

theorem witness_SpriteAddrLoadsTheGlyphAddress : State.reset.font.wf = true := by decide

/-- The highest base that does not fault and the one above it. -/
theorem witness_BcdStoresThreeDigitsOrFaults :
    (indexAt 0xFFD).dataAddr 2 ≤ 0xFFF ∧ 0xFFF < (indexAt 0xFFE).dataAddr 2 := by decide

theorem witness_StoreRegsStoresTheFirstRegistersOrFaults :
    (indexAt 0xFF0).dataAddr (15 : Reg).val ≤ 0xFFF ∧ 0xFFF < (indexAt 0xFF1).dataAddr (15 : Reg).val := by
  decide

theorem witness_LoadRegsLoadsTheFirstRegistersOrFaults :
    (indexAt 0xFFF).dataAddr (0 : Reg).val ≤ 0xFFF ∧ 0xFFF < (indexAt 0x1000).dataAddr (0 : Reg).val := by
  decide

theorem witness_LoadRegsBringsBackWhatStoreRegsStored :
    (indexAt 0xFF0).dataAddr (15 : Reg).val ≤ 0xFFF ∧ (indexAt 0xFFF).dataAddr (0 : Reg).val ≤ 0xFFF := by
  decide

/-- No row at an address outside memory, the highest base of three rows, and the one above it. -/
theorem witness_DrawXorsTheSpriteAndReportsCollision :
    ((0 : Nat) < 16 ∧ ((0 : Nat) = 0 ∨ (indexAt 0x1234).i.toNat + 0 - 1 ≤ 0xFFF)) ∧
    ((3 : Nat) < 16 ∧ ((3 : Nat) = 0 ∨ (indexAt 0xFFD).i.toNat + 3 - 1 ≤ 0xFFF)) ∧
    (0 : Nat) < 3 ∧ 0xFFF < (indexAt 0xFFE).i.toNat + 3 - 1 := by decide

theorem witness_DoubleDrawRestoresTheFramebuffer :
    (15 : Nat) < 16 ∧ (0 : Reg) ≠ 15 ∧ (1 : Reg) ≠ 15 ∧
    ((15 : Nat) = 0 ∨ (indexAt 0x300).i.toNat + 15 - 1 ≤ 0xFFF) := by decide

/-- A listed sample, an idle keypad, the largest key value and the one above it. -/
theorem witness_KeySkipsFollowTheSampledKey :
    (keysToCome [0x8000]).inputs.keys = ⟨0x8000, 0⟩ :: [] ∧
    ((keysToCome []).inputs.keys = [] ∧ (keysToCome []).inputs.keypad = .idle) ∧
    ((regs12 0x0F 0).getV 1).toNat ≤ 0x0F ∧ 0x0F < ((regs12 0x10 0).getV 1).toNat := by decide

/-- A hold of one sample before the press, and a live keypad with nothing listed. -/
theorem witness_WaitKeyWritesAPressedKey :
    ((keysToCome [0x0000, 0x0080]).inputs.keys = [⟨0x0000, 0⟩] ++ ⟨0x0080, 0⟩ :: [] ∧
      NoKeyListed [⟨0x0000, 0⟩] ∧ (⟨0x0080, 0⟩ : Config.KeySample).keys ≠ 0) ∧
    NoKeyListed State.reset.inputs.keys ∧ State.reset.inputs.keypad = .live :=
  ⟨⟨by decide, by unfold NoKeyListed; decide, by decide⟩, by unfold NoKeyListed; decide, by decide⟩

end Sys2Proof.Tests
end

/-! PROOFS. The statements of 00_scope.md: what a step can answer, the font configuration that no step
writes (R6, R44), and the invariants at reset (R43). -/

namespace Sys2Proof.Machine

/-! ### What a step can answer -/

/-- The next state of the phases after the drain: a raised fault, or what the decoded instruction
answers (R123 to R125, R219). -/
theorem State.runInstruction_next {s t : State} (h : s.runInstruction = .next t) :
    (∃ c, t = s.raise c) ∨ ∃ i, decodeWord s.fetchWord = .ok i ∧ exec i s = .next t := by
  rcases s.runInstruction_cases with ⟨a, _, he⟩ | ⟨_, _, he⟩ | ⟨_, i, hi, he⟩ <;> rw [he] at h
  · cases h; exact .inl ⟨_, rfl⟩
  · cases h; exact .inl ⟨_, rfl⟩
  · exact .inr ⟨i, hi, h⟩

/-- The next state of a step: the state kept after the end of a run, the halt of a stop sample, a
raised fault, or what the decoded instruction answers from the ready state (R36, R120, R121). -/
theorem step_next {s t : State} (h : step s = .next t) :
    (s.run ≠ .running ∧ t = s) ∨
    (s.run = .running ∧ s.stopSeen = true ∧ t = s.halt .stopped) ∨
    (s.run = .running ∧ s.stopSeen = false ∧
      ((∃ c, t = s.ready.raise c) ∨
        ∃ i, decodeWord s.ready.fetchWord = .ok i ∧ exec i s.ready = .next t)) := by
  rcases step_cases s with ⟨hr, he⟩ | ⟨hr, hs, he⟩ | ⟨hr, hs, he⟩ <;> rw [he] at h
  · cases h; exact .inl ⟨hr, rfl⟩
  · cases h; exact .inr (.inl ⟨hr, hs, rfl⟩)
  · exact .inr (.inr ⟨hr, hs, State.runInstruction_next h⟩)

/-! ### The font configuration -/

@[simp] theorem State.storeBytes_font (s : State) (a : Nat) (bs : List Byte) :
    (s.storeBytes a bs).font = s.font := by rw [State.storeBytes_eq]

@[simp] theorem State.loadBytes_font (s : State) (k : Nat) (bs : List Byte) :
    (s.loadBytes k bs).font = s.font := by rw [State.loadBytes_eq]

@[simp] theorem State.afterKeys_font (s : State) : s.afterKeys.font = s.font := by
  rw [State.afterKeys_eq]

/-- No instruction writes the configuration, whether it completes or raises its fault. -/
theorem exec_font {i : Instr} {s t : State} (h : exec i s = .next t) : t.font = s.font := by
  cases i with
  | call nnn => rcases execCall_next h with ⟨_, rfl⟩ | ⟨_, rfl⟩ <;> simp
  | draw x y n => rcases execDraw_next h with ⟨_, _, rfl⟩ | ⟨_, rfl⟩ <;> simp
  | bcd x => rcases execBcd_next h with ⟨_, rfl⟩ | ⟨_, rfl⟩ <;> simp
  | storeRegs x => rcases execStoreRegs_next h with ⟨_, rfl⟩ | ⟨_, rfl⟩ <;> simp
  | loadRegs x => rcases execLoadRegs_next h with ⟨_, rfl⟩ | ⟨_, rfl⟩ <;> simp
  | skipKeyPressed x => rcases execSkipKeyPressed_next h with ⟨_, rfl⟩ | ⟨_, rfl⟩ <;> simp
  | skipKeyNotPressed x => rcases execSkipKeyNotPressed_next h with ⟨_, rfl⟩ | ⟨_, rfl⟩ <;> simp
  | waitKey x => obtain ⟨_, _, rfl⟩ := execWaitKey_next h; simp
  | rand x kk => rw [execRand_next h]; simp
  -- Every other instruction has one outcome, an update of other fields.
  | _ => cases h; rfl

/-- Settles O7: the phases before execute leave the configuration alone, and so does every
instruction. -/
theorem stepKeepsTheFontConfiguration : Obligations.StepKeepsTheFontConfiguration := by
  intro s t h
  rcases step_next h with ⟨_, rfl⟩ | ⟨_, _, rfl⟩ | ⟨_, _, ⟨c, rfl⟩ | ⟨i, _, he⟩⟩
  · rfl
  · exact State.halt_font s .stopped
  · rw [State.raise_font, State.ready_font]
  · rw [exec_font he, State.ready_font]

/-! ### Reset -/

theorem State.reset_memWf : State.reset.memWf := rfl

@[simp] theorem State.getSlot_reset (k : Fin 16) : State.reset.getSlot k = 0 := by
  simp [State.getSlot, State.reset]

theorem State.reset_pcBound : State.reset.pcBound :=
  ⟨by decide, fun k => by simp⟩

/-- The default font base satisfies the constraint of R6. -/
theorem defaultFont_wf : defaultFont.wf = true := rfl

/-- Settles O8, one invariant at a time: no cell is listed, `pc` is 0x200 over empty slots, and the font
is the default one. -/
theorem resetMeetsTheInvariants : Obligations.ResetMeetsTheInvariants :=
  ⟨State.reset_memWf, State.reset_pcBound, defaultFont_wf⟩

end Sys2Proof.Machine

/-! PROOFS. The statements of 10_state.md: the reset values (R43), the canonical memory and the bounds
every step keeps (R24, R28, R34, R60), which instruction may write which part of the state (R22 to
R33), the events of the execute phase (R40) and the absorbing run states (R36). -/

namespace Sys2Proof.Machine

/-! ### Canonical memories (R34, R60) -/

theorem Memory.read_cons (f : Config.Font) (k : Nat) (b : Byte) (m : List Host.Cell) (a : Nat) :
    Memory.read f ((k, b) :: m) a = if k = a then b else Memory.read f m a := by
  simp only [Memory.read, Memory.lookup]
  split <;> rfl

/-- Below the lowest listed address a canonical memory reads as the reset content. -/
theorem Memory.read_of_lt {f : Config.Font} {lo a : Nat} {m : List Host.Cell}
    (h : Memory.wfFrom f lo m = true) (ha : a < lo) :
    Memory.read f m a = Memory.background f a := by
  induction m generalizing lo with
  | nil => rfl
  | cons c m ih =>
    obtain ⟨k, b⟩ := c
    obtain ⟨hk, _, _, hm⟩ := (Memory.wfFrom_cons ..).1 h
    rw [Memory.read_cons, if_neg (by omega), ih hm (by omega)]

/-- The lowest listed address reads as another byte than its reset content. -/
theorem Memory.read_head_ne {f : Config.Font} {lo k : Nat} {b : Byte} {m : List Host.Cell}
    (h : Memory.wfFrom f lo ((k, b) :: m) = true) :
    Memory.read f ((k, b) :: m) k ≠ Memory.background f k := by
  obtain ⟨_, _, hb, _⟩ := (Memory.wfFrom_cons ..).1 h
  rwa [Memory.read_cons, if_pos rfl]

/-- The lowest listed address is one at which the other memory lists a cell too, so the other's lowest
listed address is not above it. -/
theorem Memory.head_le_of_read_eq {f : Config.Font} {lo lo' k k' : Nat} {b b' : Byte}
    {m m' : List Host.Cell} (h : Memory.wfFrom f lo ((k, b) :: m) = true)
    (h' : Memory.wfFrom f lo' ((k', b') :: m') = true)
    (hr : ∀ a, Memory.read f ((k, b) :: m) a = Memory.read f ((k', b') :: m') a) : k' ≤ k := by
  by_contra hlt
  obtain ⟨_, hk, hb, hm⟩ := (Memory.wfFrom_cons ..).1 h'
  refine Memory.read_head_ne h ((hr k).trans (Memory.read_of_lt (lo := k') ?_ (by omega)))
  exact (Memory.wfFrom_cons ..).2 ⟨le_refl _, hk, hb, hm⟩

/-- Canonical memories are determined by their reads, wherever their addresses start. -/
theorem Memory.eq_of_read_eq {f : Config.Font} {lo lo' : Nat} {m m' : List Host.Cell}
    (h : Memory.wfFrom f lo m = true) (h' : Memory.wfFrom f lo' m' = true)
    (hr : ∀ a, Memory.read f m a = Memory.read f m' a) : m = m' := by
  induction m generalizing lo lo' m' with
  | nil =>
    cases m' with
    | nil => rfl
    | cons c' m' => exact absurd (hr c'.1).symm (Memory.read_head_ne h')
  | cons c m ih =>
    cases m' with
    | nil => exact absurd (hr c.1) (Memory.read_head_ne h)
    | cons c' m' =>
      obtain ⟨k, b⟩ := c
      obtain ⟨k', b'⟩ := c'
      obtain rfl : k = k' := le_antisymm
        (Memory.head_le_of_read_eq h' h fun a => (hr a).symm) (Memory.head_le_of_read_eq h h' hr)
      have hb : b = b' := by simpa [Memory.read_cons] using hr k
      obtain ⟨_, _, _, hm⟩ := (Memory.wfFrom_cons ..).1 h
      obtain ⟨_, _, _, hm'⟩ := (Memory.wfFrom_cons ..).1 h'
      have htail : ∀ a, Memory.read f m a = Memory.read f m' a := fun a => by
        by_cases ha : k = a
        · rw [Memory.read_of_lt hm (by omega), Memory.read_of_lt hm' (by omega)]
        · simpa [Memory.read_cons, ha] using hr a
      rw [hb, ih hm hm' htail]

/-- Settles O10, by induction on the first list: the lowest listed address and its byte are what the
reads show, and above them the tails read alike. -/
theorem canonicalMemoriesThatReadAlikeAreEqual :
    Obligations.CanonicalMemoriesThatReadAlikeAreEqual :=
  fun _ _ _ h h' hr => Memory.eq_of_read_eq h h' hr

/-! ### The keypad skips -/

/-- Both keypad skips change the input record and skip or not, or raise a fault (R200, R201). -/
theorem execSkipKey_next {i : Instr} {x : Reg} {s t : State}
    (hi : i = .skipKeyPressed x ∨ i = .skipKeyNotPressed x) (h : exec i s = .next t) :
    (∃ (inp : Inputs) (b : Bool), t = ({ s with inputs := inp } : State).skipIf b) ∨
      ∃ c, t = s.raise c := by
  rcases hi with rfl | rfl
  · rcases execSkipKeyPressed_next h with ⟨_, rfl⟩ | ⟨_, rfl⟩
    · rw [State.afterKeys_eq]; exact .inl ⟨_, _, rfl⟩
    · exact .inr ⟨_, rfl⟩
  · rcases execSkipKeyNotPressed_next h with ⟨_, rfl⟩ | ⟨_, rfl⟩
    · rw [State.afterKeys_eq]; exact .inl ⟨_, _, rfl⟩
    · exact .inr ⟨_, rfl⟩

/-! ### Every step keeps memory canonical -/

/-- Every instruction keeps memory canonical: the two that store do so inside memory (R183, R184). -/
theorem exec_memWf {i : Instr} {s t : State} (hs : s.memWf) (h : exec i s = .next t) : t.memWf := by
  cases i with
  | bcd x =>
    rcases execBcd_next h with ⟨_, rfl⟩ | ⟨hr, rfl⟩
    · exact hs
    · refine State.memWf_storeBytes hs (.inr ?_)
      simp only [State.dataAddr, bcdDigits, List.length_cons, List.length_nil]
      omega
  | storeRegs x =>
    rcases execStoreRegs_next h with ⟨_, rfl⟩ | ⟨hr, rfl⟩
    · exact hs
    · refine State.memWf_storeBytes hs (.inr ?_)
      simp only [State.dataAddr, State.length_regsUpTo]
      omega
  | loadRegs x =>
    rcases execLoadRegs_next h with ⟨_, rfl⟩ | ⟨_, rfl⟩
    · exact hs
    · rw [State.loadBytes_eq]; exact hs
  | call nnn => rcases execCall_next h with ⟨_, rfl⟩ | ⟨_, rfl⟩ <;> exact hs
  | draw x y n => rcases execDraw_next h with ⟨_, _, rfl⟩ | ⟨_, rfl⟩ <;> exact hs
  | skipKeyPressed x | skipKeyNotPressed x =>
    rcases execSkipKey_next (x := x) (by simp) h with ⟨_, _, rfl⟩ | ⟨_, rfl⟩ <;> exact hs
  | waitKey x => obtain ⟨_, _, rfl⟩ := execWaitKey_next h; exact hs
  | rand x kk => rw [execRand_next h]; exact hs
  | _ => cases h; exact hs

theorem State.ready_memWf {s : State} (hs : s.memWf) : s.ready.memWf := by
  rw [State.ready_eq]; exact hs

/-- Settles O5: the phases before execute leave memory alone, and every instruction keeps it
canonical. -/
theorem stepKeepsMemoryCanonical : Obligations.StepKeepsMemoryCanonical := by
  intro s t hs h
  rcases step_next h with ⟨_, rfl⟩ | ⟨_, _, rfl⟩ | ⟨_, _, ⟨c, rfl⟩ | ⟨i, _, he⟩⟩
  · exact hs
  · exact hs
  · exact State.ready_memWf hs
  · exact exec_memWf (State.ready_memWf hs) he

/-! ### Every step keeps the bounds of `pc` and the stack slots -/

/-- The decoder takes every address from 12 bits and every row count from 4 (R92). -/
theorem decodeWord_wellFormed {op : Word} {i : Instr} (h : decodeWord op = .ok i) :
    i.wellFormed = true := by
  have hnnn : addressFits (opNNN op) = true := decide_eq_true (Nat.mod_lt _ (by decide))
  have hn : rowCountFits (opN op) = true := decide_eq_true (Nat.mod_lt _ (by decide))
  simp only [decodeWord, decodeGroup0, decodeGroup8, decodeGroupE, decodeGroupF] at h
  repeat' split at h
  all_goals cases h
  all_goals simp [Instr.wellFormed, hnnn, hn]

/-- A fetch does not fault exactly up to 0xFFE (R123). -/
theorem State.fetchFault_eq_none {s : State} : s.fetchFault = none ↔ s.pc.toNat ≤ 0xFFE := by
  simp [State.fetchFault]

/-- The stack part of `State.pcBound` (R28). -/
def State.slotsBound (s : State) : Prop := ∀ k : Fin 16, (s.getSlot k).toNat ≤ 0x1000

theorem State.setPc_pcBound {s : State} {w : Word} (hs : s.slotsBound) (hw : w.toNat ≤ 0x10FE) :
    (s.setPc w).pcBound := ⟨hw, hs⟩

/-- An advance from where a word was fetched. -/
theorem State.advance_pcBound {s : State} (hs : s.slotsBound) (hpc : s.pc.toNat ≤ 0xFFE) :
    s.advance.pcBound := State.setPc_pcBound hs (by bv_omega)

/-- A skip from where a word was fetched. -/
theorem State.skipIf_pcBound {s : State} (c : Bool) (hs : s.slotsBound) (hpc : s.pc.toNat ≤ 0xFFE) :
    (s.skipIf c).pcBound := State.setPc_pcBound hs (by split <;> bv_omega)

theorem toNat_addressOperand_le {nnn : Nat} (h : addressFits nnn = true) :
    (addressOperand nnn).toNat ≤ 0xFFF := by
  have hn : nnn < 0x1000 := of_decide_eq_true h
  rw [addressOperand, BitVec.toNat_ofNat]
  omega

/-- The largest target of jump-offset is 0xFFF + 0xFF (R24, R143). -/
theorem State.toNat_offsetTarget_le (s : State) {nnn : Nat} (h : addressFits nnn = true) :
    (s.offsetTarget nnn).toNat ≤ 0x10FE := by
  have ha := toNat_addressOperand_le h
  have hv := (s.getV 0).isLt
  simp only [State.offsetTarget, zext16, BitVec.toNat_add, BitVec.toNat_setWidth]
  omega

/-- The pushed return address is at most 0x1000 (R28, R142). -/
theorem State.push_slotsBound {s : State} {h : s.sp.val < 16} (hs : s.slotsBound)
    (hpc : s.pc.toNat ≤ 0xFFE) : (s.push (s.pc + 2) h).slotsBound := by
  intro k
  rw [State.getSlot_push]
  split
  · bv_omega
  · exact hs k

theorem State.guardData_pcBound {s t u : State} {n : Nat} (hs : s.pcBound) (ht : t.pcBound)
    (h : s.guardData n t = .next u) : u.pcBound := by
  rcases State.guardData_next h with ⟨_, _, rfl⟩ | ⟨_, rfl⟩
  · exact hs
  · exact ht

/-- An instruction whose word lay inside memory keeps `pc` and the slots in bounds. -/
theorem exec_pcBound {i : Instr} {s t : State} (hi : i.wellFormed = true)
    (hpc : s.pc.toNat ≤ 0xFFE) (hs : s.slotsBound) (h : exec i s = .next t) : t.pcBound := by
  have hsb : s.pcBound := ⟨hpc.trans (by decide), hs⟩
  cases i with
  | ret => cases h; exact State.setPc_pcBound hs ((hs _).trans (by decide))
  | jump nnn =>
    cases h; exact State.setPc_pcBound hs ((toNat_addressOperand_le hi).trans (by decide))
  | jumpOffset nnn => cases h; exact State.setPc_pcBound hs (s.toNat_offsetTarget_le hi)
  | call nnn =>
    rcases execCall_next h with ⟨_, rfl⟩ | ⟨_, rfl⟩
    · exact State.setPc_pcBound (State.push_slotsBound hs hpc)
        ((toNat_addressOperand_le hi).trans (by decide))
    · exact hsb
  | skipEqImm _ _ | skipNeImm _ _ | skipEqReg _ _ | skipNeReg _ _ =>
    cases h; exact State.skipIf_pcBound _ hs hpc
  | skipKeyPressed x | skipKeyNotPressed x =>
    rcases execSkipKey_next (x := x) (by simp) h with ⟨_, _, rfl⟩ | ⟨_, rfl⟩
    · exact State.skipIf_pcBound _ hs hpc
    · exact hsb
  | draw _ _ _ =>
    refine State.guardData_pcBound hsb ?_ h
    exact State.advance_pcBound hs hpc
  | bcd _ | storeRegs _ =>
    refine State.guardData_pcBound hsb ?_ h
    rw [State.storeBytes_eq]; exact State.advance_pcBound hs hpc
  | loadRegs _ =>
    refine State.guardData_pcBound hsb ?_ h
    rw [State.loadBytes_eq]; exact State.advance_pcBound hs hpc
  | waitKey x => obtain ⟨_, _, rfl⟩ := execWaitKey_next h; exact State.advance_pcBound hs hpc
  | rand x kk => rw [execRand_next h]; exact State.advance_pcBound hs hpc
  | _ => cases h; exact State.advance_pcBound hs hpc

theorem State.ready_pcBound {s : State} (hs : s.pcBound) : s.ready.pcBound := by
  rw [State.ready_eq]; exact hs

theorem State.runInstruction_pcBound {s t : State} (hs : s.pcBound)
    (h : s.runInstruction = .next t) : t.pcBound := by
  rcases s.runInstruction_cases with ⟨a, _, he⟩ | ⟨_, _, he⟩ | ⟨hf, i, hi, he⟩ <;> rw [he] at h
  · cases h; exact hs
  · cases h; exact hs
  · exact exec_pcBound (decodeWord_wellFormed hi) (State.fetchFault_eq_none.1 hf) hs.2 h

/-- Settles O6: an instruction runs only from a `pc` of at most 0xFFE, its word gives a 12-bit
address, and a return takes a bounded slot. -/
theorem stepKeepsPcAndStackBounds : Obligations.StepKeepsPcAndStackBounds := by
  intro s t hs h
  rcases step_cases s with ⟨_, he⟩ | ⟨_, _, he⟩ | ⟨_, _, he⟩ <;> rw [he] at h
  · cases h; exact hs
  · cases h; exact hs
  · exact State.runInstruction_pcBound (State.ready_pcBound hs) h

/-! ### Frames of the state's operations -/

/-- Frames compose: two updates in a row write what either of them writes. -/
theorem AgreeOutside.trans {v w : Part → Prop} {s t u : State} (h : AgreeOutside v s t)
    (h' : AgreeOutside w t u) : AgreeOutside (fun p => v p ∨ w p) s u := by
  intro p hp
  have hst := h p fun hv => hp (.inl hv)
  have htu := h' p fun hw => hp (.inr hw)
  cases p <;> exact htu.trans hst

theorem State.setV_frame (s : State) (k : Reg) (b : Byte) :
    AgreeOutside (· = .v k) s (s.setV k b) := by
  intro p hp
  cases p with
  | v j => exact (s.getV_setV k j b).trans (if_neg fun e => hp (congrArg Part.v e))
  | _ => rfl

theorem State.setI_frame (s : State) (w : Word) : AgreeOutside (· = .i) s (s.setI w) := by
  intro p hp
  cases p with
  | i => exact absurd rfl hp
  | _ => rfl

theorem State.setPc_frame (s : State) (w : Word) : AgreeOutside (· = .pc) s (s.setPc w) := by
  intro p hp
  cases p with
  | pc => exact absurd rfl hp
  | _ => rfl

theorem State.setDT_frame (s : State) (b : Byte) : AgreeOutside (· = .dt) s (s.setDT b) := by
  intro p hp
  cases p with
  | dt => exact absurd rfl hp
  | _ => rfl

theorem State.setST_frame (s : State) (b : Byte) : AgreeOutside (· = .st) s (s.setST b) := by
  intro p hp
  cases p with
  | st => exact absurd rfl hp
  | _ => rfl

theorem State.setFB_frame (s : State) (fb : Framebuffer) :
    AgreeOutside (· = .fb) s (s.setFB fb) := by
  intro p hp
  cases p with
  | fb => exact absurd rfl hp
  | _ => rfl

theorem State.emit_frame (s : State) (e : Event) : AgreeOutside (· = .history) s (s.emit e) := by
  intro p hp
  cases p with
  | history => exact absurd rfl hp
  | _ => rfl

theorem State.inputs_frame (s : State) (inp : Inputs) :
    AgreeOutside (· = .inputs) s { s with inputs := inp } := by
  intro p hp
  cases p with
  | inputs => exact absurd rfl hp
  | _ => rfl

theorem State.pop_frame (s : State) : AgreeOutside (· = .sp) s s.pop := by
  intro p hp
  cases p with
  | sp => exact absurd rfl hp
  | _ => rfl

theorem State.push_frame (s : State) (w : Word) (h : s.sp.val < 16) :
    AgreeOutside (fun p => p = .sp ∨ ∃ k : Fin 16, k.val = s.sp.val ∧ p = .stack k) s
      (s.push w h) := by
  intro p hp
  cases p with
  | sp => exact absurd (.inl rfl) hp
  | stack j => exact (s.getSlot_push w h j).trans (if_neg fun e => hp (.inr ⟨j, e, rfl⟩))
  | _ => rfl

theorem State.raise_frame (s : State) (c : Cause) :
    AgreeOutside (fun p => p = .run ∨ p = .history) s (s.raise c) := by
  intro p hp
  cases p with
  | run | history => simp at hp
  | _ => rfl

/-- A store at `I` writes the bytes at its addresses alone (R63, R65). -/
theorem State.storeBytes_frame (s : State) (bs : List Byte) :
    AgreeOutside (fun p => ∃ k < bs.length, p = .mem (s.dataAddr k)) s
      (s.storeBytes (s.dataAddr 0) bs) := by
  intro p hp
  cases p with
  | mem a =>
    refine (s.readByte_storeBytes _ a bs).trans ?_
    split
    · rename_i ha
      have hk : bs.length ≤ a - s.dataAddr 0 := by
        by_contra hlt
        refine hp ⟨a - s.dataAddr 0, by omega, congrArg Part.mem ?_⟩
        simp only [State.dataAddr] at ha ⊢
        omega
      rw [List.getElem?_eq_none hk, Option.getD_none]
    · rfl
  | _ => rw [State.storeBytes_eq]; rfl

/-- A load of at most 16 bytes writes the registers `V[0]`, `V[1]`, ... alone (R185). -/
theorem State.loadBytes_frame (s : State) (bs : List Byte) (h : bs.length ≤ 16) :
    AgreeOutside (fun p => ∃ k : Reg, k.val < bs.length ∧ p = .v k) s (s.loadBytes 0 bs) := by
  intro p hp
  cases p with
  | v j =>
    have hj : bs.length ≤ j.val - 0 := by
      by_contra hlt
      exact hp ⟨j, by omega, rfl⟩
    rw [Part.same, State.getV_loadBytes s 0 bs j (by omega), if_pos (Nat.zero_le _),
      List.getElem?_eq_none hj, Option.getD_none]
  | _ => rw [State.loadBytes_eq]; rfl

theorem State.writeFlagged_frame (s : State) (x : Reg) (f r : Byte) :
    AgreeOutside (fun p => p = .v flagReg ∨ p = .v x) s (s.writeFlagged x f r) :=
  (s.setV_frame flagReg f).trans (State.setV_frame _ x r)

/-! ### What an instruction may write -/

/-- The parts of the state an instruction may write when it raises no fault (files 41 to 46). -/
def mayWrite (s : State) : Instr → Part → Prop
  | .jump _ | .jumpOffset _ | .skipEqImm _ _ | .skipNeImm _ _ | .skipEqReg _ _ | .skipNeReg _ _ =>
    fun p => p = .pc
  | .call _ => fun p => (p = .sp ∨ ∃ k : Fin 16, k.val = s.sp.val ∧ p = .stack k) ∨ p = .pc
  | .ret => fun p => p = .sp ∨ p = .pc
  | .setImm x _ | .addImm x _ | .move x _ | .or x _ | .and x _ | .xor x _ | .getDelay x =>
    fun p => p = .v x ∨ p = .pc
  | .addReg x _ | .sub x _ | .shr x | .subn x _ | .shl x =>
    fun p => (p = .v flagReg ∨ p = .v x) ∨ p = .pc
  | .rand x _ | .waitKey x => fun p => (p = .inputs ∨ p = .v x) ∨ p = .pc
  | .skipKeyPressed _ | .skipKeyNotPressed _ => fun p => p = .inputs ∨ p = .pc
  | .setIndex _ | .addIndex _ | .spriteAddr _ => fun p => p = .i ∨ p = .pc
  | .setDelay _ => fun p => p = .dt ∨ p = .pc
  | .setSound _ => fun p => p = .st ∨ p = .pc
  | .bcd _ => fun p => (∃ k < 3, p = .mem (s.dataAddr k)) ∨ p = .pc
  | .storeRegs x => fun p => (∃ k < x.val + 1, p = .mem (s.dataAddr k)) ∨ p = .pc
  | .loadRegs x => fun p => (∃ k : Reg, k.val < x.val + 1 ∧ p = .v k) ∨ p = .pc
  | .clearScreen => fun p => (p = .fb ∨ p = .history) ∨ p = .pc
  | .draw _ _ _ => fun p => ((p = .fb ∨ p = .v flagReg) ∨ p = .history) ∨ p = .pc

/-- An instruction raises a fault or writes no other part than its own. -/
theorem exec_frame {i : Instr} {s t : State} (h : exec i s = .next t) :
    (∃ c, t = s.raise c) ∨ AgreeOutside (mayWrite s i) s t := by
  cases i with
  | jump _ | jumpOffset _ | skipEqImm _ _ | skipNeImm _ _ | skipEqReg _ _ | skipNeReg _ _ =>
    cases h; exact .inr (s.setPc_frame _)
  | call nnn =>
    rcases execCall_next h with ⟨hs, rfl⟩ | ⟨_, rfl⟩
    · exact .inr ((s.push_frame _ hs).trans (State.setPc_frame _ _))
    · exact .inl ⟨_, rfl⟩
  | ret => cases h; exact .inr (s.pop_frame.trans (State.setPc_frame _ _))
  | setImm _ _ | addImm _ _ | move _ _ | or _ _ | and _ _ | xor _ _ | getDelay _ =>
    cases h; exact .inr ((s.setV_frame _ _).trans (State.setPc_frame _ _))
  | addReg _ _ | sub _ _ | shr _ | subn _ _ | shl _ =>
    cases h; exact .inr ((s.writeFlagged_frame _ _ _).trans (State.setPc_frame _ _))
  | rand x kk =>
    rw [execRand_next h]
    exact .inr (((s.inputs_frame _).trans (State.setV_frame _ _ _)).trans (State.setPc_frame _ _))
  | waitKey x =>
    obtain ⟨_, _, rfl⟩ := execWaitKey_next h
    exact .inr (((s.inputs_frame _).trans (State.setV_frame _ _ _)).trans (State.setPc_frame _ _))
  | skipKeyPressed x | skipKeyNotPressed x =>
    rcases execSkipKey_next (x := x) (by simp) h with ⟨_, _, rfl⟩ | hc
    · exact .inr ((s.inputs_frame _).trans (State.setPc_frame _ _))
    · exact .inl hc
  | setIndex _ | addIndex _ | spriteAddr _ =>
    cases h; exact .inr ((s.setI_frame _).trans (State.setPc_frame _ _))
  | setDelay _ => cases h; exact .inr ((s.setDT_frame _).trans (State.setPc_frame _ _))
  | setSound _ => cases h; exact .inr ((s.setST_frame _).trans (State.setPc_frame _ _))
  | bcd x =>
    rcases execBcd_next h with ⟨_, rfl⟩ | ⟨_, rfl⟩
    · exact .inl ⟨_, rfl⟩
    · exact .inr ((s.storeBytes_frame (bcdDigits (s.getV x))).trans (State.setPc_frame _ _))
  | storeRegs x =>
    rcases execStoreRegs_next h with ⟨_, rfl⟩ | ⟨_, rfl⟩
    · exact .inl ⟨_, rfl⟩
    · have hf := s.storeBytes_frame (s.regsUpTo x)
      rw [State.length_regsUpTo] at hf
      exact .inr (hf.trans (State.setPc_frame _ _))
  | loadRegs x =>
    rcases execLoadRegs_next h with ⟨_, rfl⟩ | ⟨_, rfl⟩
    · exact .inl ⟨_, rfl⟩
    · have hf := s.loadBytes_frame (s.readBytes (s.dataAddr 0) (regCount x))
      rw [State.length_readBytes] at hf
      exact .inr ((hf x.isLt).trans (State.setPc_frame _ _))
  | clearScreen =>
    cases h
    exact .inr (((s.setFB_frame _).trans (State.emit_frame _ _)).trans (State.setPc_frame _ _))
  | draw x y n =>
    rcases execDraw_next h with ⟨_, _, rfl⟩ | ⟨_, rfl⟩
    · exact .inl ⟨_, rfl⟩
    · exact .inr ((((s.setFB_frame _).trans (State.setV_frame _ _ _)).trans
        (State.emit_frame _ _)).trans (State.setPc_frame _ _))

/-- A part that changed is one the instruction may write, or was written by the fault entry. -/
theorem mayWrite_of_changed {i : Instr} {s t : State} {p : Part} (h : exec i s = .next t)
    (hp : ¬ p.same s t) : mayWrite s i p ∨ p = .run ∨ p = .history := by
  by_contra hn
  rw [not_or] at hn
  rcases exec_frame h with ⟨c, rfl⟩ | hf
  · exact hp (s.raise_frame c p hn.2)
  · exact hp (hf p hn.1)

/-- Settles O11: of the parts an instruction may write, `FB` is one for these two alone. -/
theorem onlyClearScreenAndDrawChangeTheFramebuffer :
    Obligations.OnlyClearScreenAndDrawChangeTheFramebuffer := by
  intro i s t h hne
  have hw := mayWrite_of_changed (p := .fb) h hne
  cases i <;> simp [mayWrite] at hw ⊢

/-- Settles O13: of the parts an instruction may write, `I` is one for these three alone. -/
theorem onlyTheIndexInstructionsWriteTheIndex :
    Obligations.OnlyTheIndexInstructionsWriteTheIndex := by
  intro i s t h hne
  have hw := mayWrite_of_changed (p := .i) h hne
  cases i <;> simp [mayWrite] at hw ⊢

/-- Settles O12: `SP` may be written by call and return, and a slot by call alone, at the old `SP`. -/
theorem onlyCallAndReturnTouchTheStack : Obligations.OnlyCallAndReturnTouchTheStack := by
  intro i s t h
  refine ⟨fun hne => ?_, fun k hne => ?_⟩
  · have hw := mayWrite_of_changed (p := .sp) h hne
    cases i <;> simp [mayWrite] at hw ⊢
  · have hw := mayWrite_of_changed (p := .stack k) h hne
    cases i <;> simp [mayWrite] at hw ⊢
    case call nnn => exact hw

/-- The only instruction that changes `DT`, and the value it writes (R31). -/
theorem exec_dt {i : Instr} {s t : State} (h : exec i s = .next t) (hne : t.dt ≠ s.dt) :
    ∃ x, i = .setDelay x ∧ t.dt = s.getV x := by
  have hw := mayWrite_of_changed (p := .dt) h hne
  cases i <;> simp [mayWrite] at hw
  case setDelay x => cases h; exact ⟨x, rfl, rfl⟩

/-- Settles O15: each timer may be written by its own instruction alone, which writes `V[x]`, and the
tick count by none. -/
theorem onlyTheTimerInstructionsWriteTheTimers :
    Obligations.OnlyTheTimerInstructionsWriteTheTimers := by
  intro i s t h
  refine ⟨exec_dt h, fun hne => ?_, ?_⟩
  · have hw := mayWrite_of_changed (p := .st) h hne
    cases i <;> simp [mayWrite] at hw
    case setSound x => cases h; exact ⟨x, rfl, rfl⟩
  · by_contra hne
    have hw := mayWrite_of_changed (p := .ticks) h hne
    cases i <;> simp [mayWrite] at hw

/-- Settles O17: `V[k]` is `V[x]` of a writer, a register load-regs loads, or VF of a flag writer. -/
theorem registersChangeOnlyAsTheirWritersSay :
    Obligations.RegistersChangeOnlyAsTheirWritersSay := by
  intro i s t k h hne
  have hw := mayWrite_of_changed (p := .v k) h hne
  cases i <;> simp [mayWrite, flagReg] at hw ⊢
  -- Left are the writers of registers: `k` is the operand `x`, or at most `x`, or 15.
  all_goals grind

/-- Settles O18: a fault emits `halted`, clear-screen and draw emit `present`, and no other
instruction may write the history. -/
theorem executeEmitsOnlyTheListedEvents : Obligations.ExecuteEmitsOnlyTheListedEvents := by
  intro i s t h
  rcases exec_frame h with ⟨c, rfl⟩ | hf
  · exact .inr (.inr ⟨c, rfl, rfl⟩)
  have hrun : t.run = s.run := hf .run (by cases i <;> simp [mayWrite])
  cases i with
  | clearScreen => cases h; exact .inr (.inl ⟨rfl, rfl, .inl rfl⟩)
  | draw x y n =>
    rcases execDraw_next h with ⟨_, _, rfl⟩ | ⟨_, rfl⟩
    · exact .inr (.inr ⟨_, rfl, rfl⟩)
    · exact .inr (.inl ⟨rfl, rfl, .inr ⟨x, y, n, rfl⟩⟩)
  | _ => exact .inl ⟨hrun, hf .history (by simp [mayWrite]), nofun, nofun⟩

/-! ### The delay timer -/

theorem State.readBytes_setDT (s : State) (b : Byte) (a n : Nat) :
    (s.setDT b).readBytes a n = s.readBytes a n := by
  induction n generalizing a with
  | zero => rfl
  | succ n ih => rw [State.readBytes, State.readBytes, ih, State.readByte_setDT]

theorem State.storeBytes_setDT (s : State) (b : Byte) (a : Nat) (bs : List Byte) :
    (s.setDT b).storeBytes a bs = (s.storeBytes a bs).setDT b := by
  induction bs generalizing s a with
  | nil => rfl
  | cons c bs ih => exact ih (s.writeByte a c) (a + 1)

theorem State.loadBytes_setDT (s : State) (b : Byte) (k : Nat) (bs : List Byte) :
    (s.setDT b).loadBytes k bs = (s.loadBytes k bs).setDT b := by
  induction bs generalizing s k with
  | nil => rfl
  | cons c bs ih => exact ih (s.setV (Fin.ofNat 16 k) c) (k + 1)

theorem State.guardData_setDT {s t u : State} {n : Nat} (b : Byte)
    (h : s.guardData n t = .next u) : (s.setDT b).guardData n (t.setDT b) = .next (u.setDT b) := by
  rcases State.guardData_next h with ⟨h0, hr, rfl⟩ | ⟨hr, rfl⟩
  · exact State.guardData_fault _ _ h0 hr
  · exact State.guardData_ok _ _ hr

theorem State.afterKeys_setDT (s : State) (b : Byte) :
    (s.setDT b).afterKeys = s.afterKeys.setDT b := by
  simp only [State.afterKeys, State.setDT_inputs]
  split <;> rfl

theorem State.afterRand_setDT (s : State) (b : Byte) :
    (s.setDT b).afterRand = s.afterRand.setDT b := by
  simp only [State.afterRand, State.setDT_inputs]
  split <;> rfl

/-- set-delay and get-delay apart, an instruction neither reads nor writes `DT` (R31). -/
theorem exec_setDT {i : Instr} {s t : State} (b : Byte)
    (hi : ∀ x, i ≠ .getDelay x ∧ i ≠ .setDelay x) (h : exec i s = .next t) :
    exec i (s.setDT b) = .next (t.setDT b) := by
  cases i with
  | getDelay x => exact absurd rfl (hi x).1
  | setDelay x => exact absurd rfl (hi x).2
  | call nnn =>
    rcases execCall_next h with ⟨hs, rfl⟩ | ⟨hs, rfl⟩
    · exact dif_pos hs
    · exact dif_neg (by rw [State.setDT_sp]; omega)
  | draw x y n =>
    have hg := State.guardData_setDT b h
    simp only [exec, execDraw, State.readBytes_setDT]
    exact hg
  | bcd x | storeRegs x =>
    have hg := State.guardData_setDT b h
    simp only [exec, execBcd, execStoreRegs, State.storeBytes_setDT]
    exact hg
  | loadRegs x =>
    have hg := State.guardData_setDT b h
    simp only [exec, execLoadRegs, State.readBytes_setDT, State.loadBytes_setDT]
    exact hg
  | skipKeyPressed x | skipKeyNotPressed x =>
    simp only [exec, execSkipKeyPressed, execSkipKeyNotPressed, State.getV_setDT,
      State.afterKeys_setDT] at h ⊢
    split at h <;> cases h <;> rfl
  | waitKey x =>
    simp only [exec, execWaitKey, State.setDT_inputs] at h ⊢
    split at h <;> cases h <;> rfl
  | rand x kk =>
    cases h
    simp only [exec, execRand, State.afterRand_setDT]
    rfl
  | _ => cases h; rfl

theorem State.toNat_tick_dt (s : State) : s.tick.dt.toNat = s.dt.toNat - 1 := by
  rw [State.tick_dt]
  split <;> bv_omega

/-- Settles O16: set-delay and get-delay by evaluation, the only writer by `exec_dt`, every other
instruction because it commutes with a write of `DT`. -/
theorem delayTimerHasItsListedWritersAndReaders :
    Obligations.DelayTimerHasItsListedWritersAndReaders :=
  ⟨fun _ _ => ⟨_, rfl, rfl⟩, fun x s => ⟨_, rfl, (s.getV_setV x x s.dt).trans (if_pos rfl)⟩,
    fun _ _ _ h hne => (exec_dt h hne).imp fun _ hx => hx.1,
    fun _ _ _ b hi h => exec_setDT b hi h, fun _ _ _ => rfl, State.toNat_tick_dt,
    fun _ => ⟨rfl, rfl⟩⟩

/-! ### The run states -/

/-- A state that a step answers again is kept however many steps run. -/
theorem run_of_step_eq_self {M : Host.Core} {s : M.State} (h : M.step s = .next s) (n : Nat) :
    M.run n s = .next s := by
  induction n with
  | zero => rfl
  | succ n ih => rw [Host.Core.run, h]; exact ih

/-- Settles O26, by induction on the number of steps: each one answers the same state. -/
theorem stoppedAndFaultedAreAbsorbing : Obligations.StoppedAndFaultedAreAbsorbing := by
  intro s n hr
  refine run_of_step_eq_self (M := core) ?_ n
  rcases step_cases s with ⟨_, he⟩ | ⟨hr', _⟩ | ⟨hr', _⟩
  · exact he
  · exact absurd hr' hr
  · exact absurd hr' hr

/-! ### Reset -/

@[simp] theorem State.getV_reset (k : Reg) : State.reset.getV k = 0 := by
  simp [State.getV, State.reset]

@[simp] theorem pixel_reset (y : Fin 32) (x : Fin 64) : pixel State.reset.fb y x = false := by
  simp [pixel, State.reset]

/-- At reset every address reads as its reset content (R43). -/
theorem State.readByte_reset (a : Nat) :
    State.reset.readByte a = Memory.background defaultFont a := rfl

/-- Settles O9: nothing is listed in memory, so the glyphs and the zeros are the reset content. -/
theorem resetHoldsTheTableOfResetValues : Obligations.ResetHoldsTheTableOfResetValues := by
  refine ⟨rfl, rfl, rfl, State.getV_reset, State.getSlot_reset, rfl, rfl, pixel_reset, rfl,
    fun a ha => ?_, fun a ha => ?_, rfl⟩
  · exact (State.readByte_reset a).trans (dif_pos ⟨Nat.zero_le a, by omega⟩)
  · exact (State.readByte_reset a).trans (dif_neg fun h => Nat.not_lt.2 ha h.2)

end Sys2Proof.Machine

/-! PROOFS. The statements of 20_memory.md: which instructions read or write memory (R67), stored bytes
as the next word (R61, R76), the placed word as the next instruction (R123, R124), and what the reset
sequence loads (R69, R70). -/

namespace Sys2Proof.Machine

/-! ### Memory accesses of the instructions (R67) -/

/-- Settles O14: of the parts an instruction may write, a byte is one for these two alone. -/
theorem onlyBcdAndStoreRegsWriteMemory : Obligations.OnlyBcdAndStoreRegsWriteMemory := by
  intro i s t a h hne
  have hw := mayWrite_of_changed (p := .mem a) h hne
  cases i <;> simp [mayWrite] at hw ⊢
  case bcd x | storeRegs x => exact hw

theorem State.afterKeys_writeByte (s : State) (a : Nat) (b : Byte) :
    (s.writeByte a b).afterKeys = s.afterKeys.writeByte a b := by
  simp only [State.afterKeys, State.writeByte_inputs]
  split <;> rfl

theorem State.afterRand_writeByte (s : State) (a : Nat) (b : Byte) :
    (s.writeByte a b).afterRand = s.afterRand.writeByte a b := by
  simp only [State.afterRand, State.writeByte_inputs]
  split <;> rfl

/-- Settles O19: an instruction with one outcome commutes with the write by evaluation, and the others
decide between theirs by the stack pointer, a register or the inputs. -/
theorem otherInstructionsDoNotReadMemory : Obligations.OtherInstructionsDoNotReadMemory := by
  intro i s t a b hdraw hdata h
  cases i with
  | draw x y n => exact absurd rfl (hdraw x y n)
  | bcd x => exact absurd rfl (hdata x).1
  | storeRegs x => exact absurd rfl (hdata x).2.1
  | loadRegs x => exact absurd rfl (hdata x).2.2
  | call nnn =>
    rcases execCall_next h with ⟨hs, rfl⟩ | ⟨hs, rfl⟩
    · exact dif_pos hs
    · exact dif_neg (by rw [State.writeByte_sp]; omega)
  | skipKeyPressed x | skipKeyNotPressed x =>
    simp only [exec, execSkipKeyPressed, execSkipKeyNotPressed, State.getV_writeByte,
      State.afterKeys_writeByte] at h ⊢
    split at h <;> cases h <;> rfl
  | waitKey x =>
    simp only [exec, execWaitKey, State.writeByte_inputs] at h ⊢
    split at h <;> cases h <;> rfl
  | rand x kk =>
    cases h
    simp only [exec, execRand, State.afterRand_writeByte]
    rfl
  | _ => cases h; rfl

/-! ### Reads after a store (R63) -/

/-- Byte `k` of the stored bytes is read at its address. -/
theorem State.readByte_storeBytes_of_lt (s : State) (a : Nat) {bs : List Byte} {k : Nat}
    (h : k < bs.length) : (s.storeBytes a bs).readByte (a + k) = bs[k] := by
  rw [State.readByte_storeBytes, if_pos (Nat.le_add_right a k), Nat.add_sub_cancel_left,
    List.getElem?_eq_getElem h, Option.getD_some]

/-- Outside the stored addresses memory reads as before. -/
theorem State.readByte_storeBytes_of_outside (s : State) {a p : Nat} {bs : List Byte}
    (h : p < a ∨ a + bs.length ≤ p) : (s.storeBytes a bs).readByte p = s.readByte p := by
  rw [State.readByte_storeBytes]
  split
  · rw [List.getElem?_eq_none (by omega), Option.getD_none]
  · rfl

/-- After the store of `V[0..x]` at `I`, the byte at `I + k` is `V[k]` (R184). -/
theorem State.readByte_storeBytes_regsUpTo (s : State) {x k : Reg} (h : k ≤ x) :
    (s.storeBytes (s.dataAddr 0) (s.regsUpTo x)).readByte (s.dataAddr k.val) = s.getV k := by
  have hk : k.val < (s.regsUpTo x).length := by
    rw [State.length_regsUpTo]; exact Nat.lt_succ_of_le h
  refine (s.readByte_storeBytes_of_lt (s.dataAddr 0) hk).trans ?_
  rw [List.getElem_eq_iff, State.getElem?_regsUpTo s x k h]

/-! ### The fetched word (R61, R76) -/

/-- The stop sample and the drain leave the word at `pc` alone. -/
theorem State.fetchWord_ready (s : State) : s.ready.fetchWord = s.fetchWord := by
  rw [State.ready_eq]; rfl

/-- The fetched word is the two bytes at the value of `pc` (R61). -/
theorem State.fetchWord_of_pc {s : State} {a : Nat} (h : s.pc.toNat = a) :
    s.fetchWord = wordOfBytes (s.readByte a) (s.readByte (a + 1)) := by
  subst h; rfl

/-- Settles O29: the store completes, and the two bytes at `I + k` are `V[k]` and `V[k+1]`. -/
theorem storedBytesAreFetchedByTheNextCycle :
    Obligations.StoredBytesAreFetchedByTheNextCycle := by
  intro s x k k' hk' hx hr
  have hk : k ≤ x := Fin.le_def.2 (by have := Fin.le_def.1 hx; omega)
  have hnext : s.dataAddr k.val + 1 = s.dataAddr k'.val := by rw [hk']; rfl
  refine ⟨_, State.guardData_ok _ _ (.inr hr), fun hpc => ?_⟩
  rw [State.fetchWord_ready, State.fetchWord_of_pc hpc, hnext, State.readByte_advance,
    State.readByte_advance, s.readByte_storeBytes_regsUpTo hk, s.readByte_storeBytes_regsUpTo hx]

/-! ### The placed word (R123, R124) -/

/-- The canonical word of a well-formed instruction decodes to it (R93, R102), format by format. -/
theorem decodeWord_encode {i : Instr} (h : i.wellFormed = true) : decodeWord (encode i) = .ok i := by
  cases i with
  | clearScreen | ret => rfl
  | jump nnn | call nnn | setIndex nnn | jumpOffset nnn =>
    have hn : nnn < 0x1000 := of_decide_eq_true h
    simp [encode, decodeWord, opGroup_formatA, opNNN_formatA, hn]
  | skipEqImm _ _ | skipNeImm _ _ | setImm _ _ | addImm _ _ | rand _ _ =>
    simp [encode, decodeWord, opGroup_formatXK, opX_formatXK, opKK_formatXK]
  | skipEqReg _ _ | skipNeReg _ _ =>
    simp [encode, decodeWord, opGroup_formatXYN, opX_formatXYN, opY_formatXYN]
  | move _ _ | or _ _ | and _ _ | xor _ _ | addReg _ _ | sub _ _ | shr _ | subn _ _ | shl _ =>
    simp [encode, decodeWord, decodeGroup8, opGroup_formatXYN, opX_formatXYN, opY_formatXYN,
      opN_formatXYN]
  | draw x y n =>
    have hn : n < 16 := of_decide_eq_true h
    simp [encode, decodeWord, opGroup_formatXYN, opX_formatXYN, opY_formatXYN, opN_formatXYN, hn]
  | skipKeyPressed _ | skipKeyNotPressed _ =>
    simp [encode, decodeWord, decodeGroupE, opGroup_formatX, opX_formatX, opN_formatX]
  | getDelay _ | waitKey _ | setDelay _ | setSound _ | addIndex _ | spriteAddr _ | bcd _
  | storeRegs _ | loadRegs _ =>
    simp [encode, decodeWord, decodeGroupF, opGroup_formatX, opX_formatX, low_formatX]

/-- The step that fetches and decodes to `i` is `exec i` on the ready state (R123 to R125). -/
theorem step_of_willRun {s : State} {i : Instr} (h : s.willRun i) : step s = exec i s.ready := by
  obtain ⟨⟨hrun, hstop, hpc⟩, hdec⟩ := h
  have hseen : s.stopSeen = false := by simpa [State.stopSeen] using hstop
  have hfault : s.ready.fetchFault = none := by rwa [State.fetchFault_eq_none, State.ready_pc]
  rw [← State.fetchWord_ready] at hdec
  calc step s = s.ready.runInstruction := by simp [step, State.cycle, hrun, hseen]
    _ = exec i s.ready := by simp [State.runInstruction, State.fetchDecode, hfault, hdec]

/-- A word's value as a row of the opcode table is the word. -/
theorem tableWord_toNat (op : Word) : tableWord 16 op.toNat = op := by
  rw [tableWord, Nat.mod_eq_of_lt op.isLt, BitVec.ofNat_toNat, BitVec.setWidth_eq]

theorem State.armFetch_fetches (s : State) : s.armFetch.fetches := by
  refine ⟨rfl, ?_, ?_⟩
  · by_cases hs : s.inputs.stop = some 0 <;> simp [State.armFetch, State.stopSeen, hs]
  · simp only [State.armFetch]
    split
    · decide
    · omega

/-- The word placed at `pc` is the word the fetch reads there (R61). -/
theorem State.fetchWord_placeWord (s : State) (op : Word) : (s.placeWord op).fetchWord = op := by
  have hpc : (s.placeWord op).pc.toNat = s.armFetch.pc.toNat := by
    rw [State.placeWord, State.storeBytes_eq]
  have h1 := s.armFetch.readByte_storeBytes_of_lt s.armFetch.pc.toNat (bs := bytesOfWord op)
    (k := 0) Nat.zero_lt_two
  have h0 := s.armFetch.readByte_storeBytes_of_lt s.armFetch.pc.toNat (bs := bytesOfWord op)
    (k := 1) Nat.one_lt_two
  rw [State.fetchWord_of_pc hpc]
  exact (congrArg₂ wordOfBytes h1 h0).trans (wordOfBytes_bits op)

/-- The next cycle runs the instruction the placed word decodes to. -/
theorem State.placeWord_willRun (s : State) {op : Word} {i : Instr} (h : decodeWord op = .ok i) :
    (s.placeWord op).willRun i := by
  refine ⟨?_, by rwa [State.fetchWord_placeWord]⟩
  rw [State.placeWord, State.storeBytes_eq]
  exact s.armFetch_fetches

/-- Settles O30: the placed word is the instruction's own, which the next cycle fetches and decodes. -/
theorem placedWordIsTheNextInstruction : Obligations.PlacedWordIsTheNextInstruction := by
  intro s i hi
  rw [State.withFetchWord, tableWord_toNat]
  exact step_of_willRun (s.placeWord_willRun (decodeWord_encode hi))

/-! ### The reset sequence (R69, R70, R240) -/

/-- The reset values over a font, with the glyphs loaded (R43, R69). -/
def State.glyphsLoaded (font : Config.Font) : State :=
  State.loadBuiltinSprites { State.reset with font := font }

/-- The state the reset sequence ends in for an image that fits (R240). -/
def State.booted (font : Config.Font) (image : List Byte) : State :=
  (State.glyphsLoaded font).storeBytes 0x200 image

/-- An image of at most `MAX_PROGRAM` bytes is loaded (R70). -/
theorem boot_of_length_le (font : Config.Font) {image : List Byte} (h : image.length ≤ 3584) :
    boot font (some image) = .ok (State.booted font image) :=
  if_pos h

/-- A longer image is refused (R70, D18). -/
theorem boot_of_lt_length (font : Config.Font) {image : List Byte} (h : 3584 < image.length) :
    boot font (some image) = .error .tooLong :=
  if_neg (Nat.not_le.2 h)

@[simp] theorem State.glyphsLoaded_font (font : Config.Font) :
    (State.glyphsLoaded font).font = font :=
  State.storeBytes_font _ _ _

/-- Outside the font region memory is 0 before the program load (R43, D6). -/
theorem State.readByte_glyphsLoaded_of_outside {font : Config.Font} {a : Nat}
    (h : a < font.base ∨ font.base + 80 ≤ a) : (State.glyphsLoaded font).readByte a = 0 := by
  refine (State.readByte_storeBytes_of_outside _ (by simpa using h)).trans ?_
  exact dif_neg (show ¬(font.base ≤ a ∧ a < font.base + 80) by omega)

/-- The glyphs stand from `FONT_BASE` on before the program load (R69). -/
theorem State.readByte_glyphsLoaded (font : Config.Font) {j : Nat} (h : j < 80) :
    (State.glyphsLoaded font).readByte (font.base + j) = font.glyphs[j] :=
  State.readByte_storeBytes_of_lt _ font.base (bs := font.glyphs.toList) (by simpa using h)

theorem State.glyphsLoaded_memWf {font : Config.Font} (h : font.base + 80 ≤ 0x200) :
    (State.glyphsLoaded font).memWf :=
  State.memWf_storeBytes (s := { State.reset with font := font }) rfl
    (.inr (by simp; omega))

/-- The whole reset sequence writes the configuration and memory alone. -/
theorem State.booted_frame (font : Config.Font) (image : List Byte) :
    AgreeOutside (fun p => p = .font ∨ ∃ a, p = .mem a) State.reset (State.booted font image) := by
  intro p hp
  rw [State.booted, State.storeBytes_eq, State.glyphsLoaded, State.loadBuiltinSprites,
    State.storeBytes_eq]
  cases p with
  | font => exact absurd (.inl rfl) hp
  | mem a => exact absurd (.inr ⟨a, rfl⟩) hp
  | _ => rfl

/-- Settles O31: the image is stored above the font region (R6), so each store is what is read in its
own region, and the reset content everywhere else. -/
theorem bootLoadsGlyphsAndProgram : Obligations.BootLoadsGlyphsAndProgram := by
  intro font hwf
  have hfont : font.base + 80 ≤ 0x200 := of_decide_eq_true hwf
  refine ⟨fun image hlen => ?_, fun image hlen => boot_of_lt_length font hlen, rfl⟩
  refine ⟨_, boot_of_length_le font hlen, ?canonical, fun j hj => ?image, fun j hj => ?glyphs,
    fun a hfa hia => ?elsewhere, ?config, State.booted_frame font image⟩
  case canonical =>
    exact State.memWf_storeBytes (State.glyphsLoaded_memWf hfont) (.inr (by omega))
  case image => exact State.readByte_storeBytes_of_lt _ _ hj
  case glyphs =>
    rw [State.booted, State.readByte_storeBytes_of_outside _ (.inl (by omega)),
      State.readByte_glyphsLoaded font hj]
  case elsewhere =>
    rw [State.booted, State.readByte_storeBytes_of_outside _ hia,
      State.readByte_glyphsLoaded_of_outside hfa]
  case config => rw [State.booted, State.storeBytes_font, State.glyphsLoaded_font]

end Sys2Proof.Machine

/-! PROOFS. The statements of 30_encoding.md: decoding after encoding (R90, R102), the opcode map in its
mask form (R93 to R98), the list of unknown encodings (R100), and words written out from the map. -/

namespace Sys2Proof.Machine

/-! ### Decoding after encoding (R90, R102) -/

/-- Settles O1: the bytes put together are the canonical word again, and that word decodes to the
instruction. -/
theorem decodeAfterEncodeGivesTheInstruction :
    Obligations.DecodeAfterEncodeGivesTheInstruction := by
  intro i rest hi
  rw [encodeBytes, decode_bytesOfWord, decodeWord_encode hi]
  rfl

/-! ### The unknown encodings (R100) -/

theorem decodeGroup0_eq_error {op : Word} :
    decodeGroup0 op = .error (.unknownOpcode op) ↔ opN op ∉ [0x0, 0xE] := by
  unfold decodeGroup0
  split <;> simp_all

theorem decodeGroup8_eq_error {op : Word} :
    decodeGroup8 op = .error (.unknownOpcode op) ↔
      opN op ∈ [8, 9, 0xA, 0xB, 0xC, 0xD, 0xF] := by
  have hlt : opN op < 16 := bits_3_0_lt op
  unfold decodeGroup8
  split
  case h_10 => simp; grind
  all_goals simp [*]

theorem decodeGroupE_eq_error {op : Word} :
    decodeGroupE op = .error (.unknownOpcode op) ↔ opN op ∉ [0x1, 0xE] := by
  unfold decodeGroupE
  split <;> simp_all

theorem decodeGroupF_eq_error {op : Word} :
    decodeGroupF op = .error (.unknownOpcode op) ↔
      bits op 7 0 ∉ [0x07, 0x0A, 0x15, 0x18, 0x1E, 0x29, 0x33, 0x55, 0x65] := by
  unfold decodeGroupF
  split <;> simp_all

/-- Settles O3: of the sixteen groups only the four with a key of their own refuse a word, each by its
own list. -/
theorem decoderRefusesExactlyTheUnknownEncodings :
    Obligations.DecoderRefusesExactlyTheUnknownEncodings := by
  intro op
  have hlt : opGroup op < 16 := bits_15_12_lt op
  change _ ↔ (opGroup op = 0x0 ∧ opN op ∉ _) ∨ (opGroup op = 0x8 ∧ opN op ∈ _) ∨
    (opGroup op = 0xE ∧ opN op ∉ _) ∨ (opGroup op = 0xF ∧ _)
  rw [← decodeGroup0_eq_error, ← decodeGroup8_eq_error, ← decodeGroupE_eq_error,
    ← decodeGroupF_eq_error]
  unfold decodeWord
  split
  -- No group is above 0xF.
  case h_17 => grind
  all_goals simp [*]

/-! ### The rows of the opcode map (R93) -/

/-- A word selects a row of mask 0xF000 iff its group is the one of the row's match. -/
theorem selects_F000_iff {op m : Word} (hm : m &&& 0xF000#16 = m) :
    (OpcodeRow.mk 0xF000 m).selects op ↔ opGroup op = m.toNat / 0x1000 := by
  change op &&& 0xF000#16 = m ↔ bits op 15 12 = _
  rw [← BitVec.toNat_inj, toNat_and_F000, ← hm, toNat_and_F000]
  omega

/-- A word selects a row of mask 0xF00F iff its group and last nibble are those of the row's match. -/
theorem selects_F00F_iff {op m : Word} (hm : m &&& 0xF00F#16 = m) :
    (OpcodeRow.mk 0xF00F m).selects op ↔
      opGroup op = m.toNat / 0x1000 ∧ opN op = m.toNat % 0x10 := by
  change op &&& 0xF00F#16 = m ↔ bits op 15 12 = _ ∧ bits op 3 0 = _
  have h := bits_3_0_lt op
  have h' := bits_3_0_lt m
  rw [← BitVec.toNat_inj, toNat_and_F00F, ← hm, toNat_and_F00F]
  omega

/-- A word selects a row of mask 0xF0FF iff its group and low byte are those of the row's match. -/
theorem selects_F0FF_iff {op m : Word} (hm : m &&& 0xF0FF#16 = m) :
    (OpcodeRow.mk 0xF0FF m).selects op ↔
      opGroup op = m.toNat / 0x1000 ∧ bits op 7 0 = m.toNat % 0x100 := by
  change op &&& 0xF0FF#16 = m ↔ bits op 15 12 = _ ∧ _
  have h := bits_7_0_lt op
  have h' := bits_7_0_lt m
  rw [← BitVec.toNat_inj, toNat_and_F0FF, ← hm, toNat_and_F0FF]
  omega

theorem row_mem_opcodeRows (i : Instr) : i.row ∈ opcodeRows := by
  cases i <;> simp [Instr.row, opcodeRows]

/-! ### A decoded word selects its instruction's row -/

/-- The instruction a word decodes to has the row the word selects. -/
theorem row_selects_of_decodeWord {op : Word} {i : Instr} (h : decodeWord op = .ok i) :
    i.row.selects op := by
  unfold decodeWord at h
  split at h
  case h_1 hg | h_9 hg | h_15 hg =>
    simp only [decodeGroup0, decodeGroup8, decodeGroupE] at h
    split at h <;> cases h
    all_goals exact (selects_F00F_iff rfl).2 ⟨hg, ‹_›⟩
  case h_16 hg =>
    unfold decodeGroupF at h
    split at h <;> cases h
    all_goals exact (selects_F0FF_iff rfl).2 ⟨hg, ‹_›⟩
  all_goals cases h
  all_goals exact (selects_F000_iff rfl).2 ‹_›

/-! ### A word that selects a row decodes to an instruction of it -/

/-- A word that selects an instruction's row decodes to an instruction of that row. -/
theorem exists_decodeWord_of_row_selects {op : Word} {i : Instr} (h : i.row.selects op) :
    ∃ j, decodeWord op = .ok j ∧ j.row = i.row := by
  cases i with
  | jump _ | call _ | skipEqImm _ _ | skipNeImm _ _ | skipEqReg _ _ | setImm _ _ | addImm _ _
  | skipNeReg _ _ | setIndex _ | jumpOffset _ | rand _ _ | draw _ _ _ =>
    have hg := (selects_F000_iff rfl).1 h
    simp [decodeWord, hg, Instr.row]
  | clearScreen | ret | move _ _ | or _ _ | and _ _ | xor _ _ | addReg _ _ | sub _ _ | shr _
  | subn _ _ | shl _ | skipKeyPressed _ | skipKeyNotPressed _ =>
    obtain ⟨hg, hn⟩ := (selects_F00F_iff rfl).1 h
    simp [decodeWord, decodeGroup0, decodeGroup8, decodeGroupE, hg, hn, Instr.row]
  | getDelay _ | waitKey _ | setDelay _ | setSound _ | addIndex _ | spriteAddr _ | bcd _
  | storeRegs _ | loadRegs _ =>
    obtain ⟨hg, hl⟩ := (selects_F0FF_iff rfl).1 h
    simp [decodeWord, decodeGroupF, hg, hl, Instr.row]

/-- Every row of the map is the row of the instruction its match decodes to. -/
theorem decodeWord_pattern : ∀ r ∈ opcodeRows, (decodeWord r.pattern).map Instr.row = .ok r := by
  decide

theorem exists_row_eq_of_mem {r : OpcodeRow} (h : r ∈ opcodeRows) : ∃ i : Instr, i.row = r := by
  have hr := decodeWord_pattern r h
  cases hd : decodeWord r.pattern with
  | error e => rw [hd] at hr; cases hr
  | ok i => rw [hd] at hr; exact ⟨i, Except.ok.inj hr⟩

/-! ### The cycle that fetches an unknown word (R130, R211) -/

theorem State.raise_faultsWith (s : State) (c : Cause) : FaultsWith s (s.raise c) c :=
  ⟨s.raise_run c, s.raise_history c, s.raise_frame c⟩

/-- A cycle that fetches runs its last phases from the ready state, with no fault of the fetch (R120,
R123). -/
theorem step_of_fetches {s : State} (h : s.fetches) :
    step s = s.ready.runInstruction ∧ s.ready.fetchFault = none := by
  obtain ⟨hrun, hstop, hpc⟩ := h
  have hseen : s.stopSeen = false := by simpa [State.stopSeen] using hstop
  exact ⟨by simp [step, State.cycle, hrun, hseen],
    by rwa [State.fetchFault_eq_none, State.ready_pc]⟩

/-- The step that fetches a word with no instruction raises UnknownOpcode on the ready state. -/
theorem step_of_decodeWord_error {s : State} {e : DecodeError} (hf : s.fetches)
    (hd : decodeWord s.fetchWord = .error e) :
    step s = .next (s.ready.raise (.unknownOpcode s.fetchWord s.pc)) := by
  obtain ⟨hstep, hfault⟩ := step_of_fetches hf
  simp [hstep, State.runInstruction, State.fetchDecode, hfault, State.fetchWord_ready, hd,
    State.ready_pc]

/-- Settles O2: the row is found from its match and the word's own key, a decoded word selects its row,
and so a word that selects none is refused. -/
theorem decoderFollowsTheOpcodeMap : Obligations.DecoderFollowsTheOpcodeMap := by
  refine ⟨fun op r hr hs => ?row, fun op i h => ⟨row_mem_opcodeRows i, row_selects_of_decodeWord h⟩,
    fun s hf hno => ?unknown⟩
  case row =>
    obtain ⟨i, rfl⟩ := exists_row_eq_of_mem hr
    exact exists_decodeWord_of_row_selects hs
  case unknown =>
    cases hd : decodeWord s.fetchWord with
    | ok i => exact absurd (row_selects_of_decodeWord hd) (hno _ (row_mem_opcodeRows i))
    | error e => exact ⟨_, step_of_decodeWord_error hf hd, s.ready.raise_faultsWith _⟩

/-! ### Known words (R94 to R98) -/

/-- Settles O4, by evaluating the decoder on each of the ten words. -/
theorem knownWordsDecodeAsTheMapSays : Obligations.KnownWordsDecodeAsTheMapSays :=
  ⟨rfl, rfl, rfl, rfl, rfl, rfl, rfl, rfl, rfl, rfl⟩

end Sys2Proof.Machine

/-! PROOFS. The statements of 40_execution_cycle.md: the stop sample (R121), the drain (R122, R223), the
fetch and the decoded instruction (R123 to R125), get-delay after the drain (R203, R245), and wait-key,
the one instruction that can hold for ever (R128, R202, R247). -/

namespace Sys2Proof.Machine

/-! ### The drain (R122, R223) -/

theorem State.toNat_tick_st (s : State) : s.tick.st.toNat = s.st.toNat - 1 := by
  rw [State.tick_st]
  split <;> bv_omega

theorem State.toNat_tickN_dt (n : Nat) (s : State) :
    (State.tickN n s).dt.toNat = s.dt.toNat - n := by
  induction n generalizing s with
  | zero => rfl
  | succ n ih => rw [State.tickN, ih, State.toNat_tick_dt]; omega

theorem State.toNat_tickN_st (n : Nat) (s : State) :
    (State.tickN n s).st.toNat = s.st.toNat - n := by
  induction n generalizing s with
  | zero => rfl
  | succ n ih => rw [State.tickN, ih, State.toNat_tick_st]; omega

theorem State.tickN_ticks (n : Nat) (s : State) : (State.tickN n s).ticks = s.ticks + n := by
  induction n generalizing s with
  | zero => rfl
  | succ n ih => rw [State.tickN, ih, State.tick_ticks]; omega

/-- Each tick at which `ST` is nonzero emits one trigger, so `n` ticks emit `min(n, ST)` (R224, D16). -/
theorem State.tickN_history (n : Nat) (s : State) :
    (State.tickN n s).history =
      List.replicate (min n s.st.toNat) .audioTrigger ++ s.history := by
  induction n generalizing s with
  | zero => simp [State.tickN]
  | succ n ih =>
    rw [State.tickN, ih, State.toNat_tick_st, State.tick_history]
    by_cases hst : s.st = 0
    · simp [hst]
    · have hpos : 0 < s.st.toNat := by bv_omega
      rw [if_neg hst, show min (n + 1) s.st.toNat = min n (s.st.toNat - 1) + 1 by omega,
        List.replicate_succ', List.append_assoc, List.singleton_append]

/-- `max(DT, ST)` ticks bring `DT` to 0. -/
@[simp] theorem State.drain_dt (s : State) : s.drain.dt = 0 :=
  BitVec.eq_of_toNat_eq <|
    (s.toNat_tickN_dt _).trans (Nat.sub_eq_zero_of_le (Nat.le_max_left _ _))

/-- `max(DT, ST)` ticks bring `ST` to 0. -/
@[simp] theorem State.drain_st (s : State) : s.drain.st = 0 :=
  BitVec.eq_of_toNat_eq <|
    (s.toNat_tickN_st _).trans (Nat.sub_eq_zero_of_le (Nat.le_max_right _ _))

@[simp] theorem State.drain_ticks (s : State) :
    s.drain.ticks = s.ticks + max s.dt.toNat s.st.toNat := s.tickN_ticks _

@[simp] theorem State.drain_history (s : State) :
    s.drain.history = List.replicate s.st.toNat .audioTrigger ++ s.history := by
  rw [State.drain, State.tickN_history, Nat.min_eq_right (Nat.le_max_right _ _)]

theorem State.drain_frame (s : State) :
    AgreeOutside (fun p => p = .dt ∨ p = .st ∨ p = .ticks ∨ p = .history) s s.drain := by
  intro p hp
  rw [State.drain_eq]
  cases p with
  | dt | st | ticks | history => simp at hp
  | _ => rfl

/-- Settles O23, from what `n` ticks do, by induction on `n`, at `n = max(DT, ST)`. -/
theorem drainRunsBothTimersToZero : Obligations.DrainRunsBothTimersToZero :=
  fun s => ⟨s.drain_dt, s.drain_st, s.drain_ticks, s.drain_history, s.drain_frame⟩

/-! ### The ready state (R121, R122) -/

@[simp] theorem State.ready_dt (s : State) : s.ready.dt = 0 := s.afterStopSample.drain_dt

@[simp] theorem State.ready_ticks (s : State) :
    s.ready.ticks = s.ticks + max s.dt.toNat s.st.toNat := s.afterStopSample.drain_ticks

theorem State.ready_inputs (s : State) :
    s.ready.inputs = { s.inputs with stop := s.inputs.stop.map (· - 1) } := by
  rw [State.ready_eq, State.afterStopSample_inputs]

theorem State.ready_frame (s : State) :
    AgreeOutside (fun p => p = .dt ∨ p = .st ∨ p = .ticks ∨ p = .history ∨ p = .inputs)
      s s.ready := by
  intro p hp
  rw [State.ready_eq]
  cases p with
  | dt | st | ticks | history | inputs => simp at hp
  | _ => rfl

/-! ### The stop sample (R121) -/

theorem State.stopSeen_eq_true {s : State} : s.stopSeen = true ↔ s.inputs.stop = some 0 :=
  beq_iff_eq

theorem State.halt_frame (s : State) (r : Run) :
    AgreeOutside (fun p => p = .run ∨ p = .history) s (s.halt r) := by
  intro p hp
  cases p with
  | run | history => simp at hp
  | _ => rfl

/-- A running machine whose stop sample reads 1 halts at once (R121, D15). -/
theorem step_of_stop {s : State} (hrun : s.run = .running) (hstop : s.inputs.stop = some 0) :
    step s = .next (s.halt .stopped) := by
  simp [step, State.cycle, hrun, State.stopSeen_eq_true.2 hstop]

/-- A running machine whose stop sample reads 0 goes on from the ready state (R120). -/
theorem step_of_no_stop {s : State} (hrun : s.run = .running) (hstop : s.inputs.stop ≠ some 0) :
    step s = s.ready.runInstruction := by
  simp [step, State.cycle, hrun, State.stopSeen_eq_true, hstop]

/-- Settles O24: the step is the halt, which writes `RUN` and the history alone. -/
theorem stopSampleEndsTheRun : Obligations.StopSampleEndsTheRun :=
  fun s hrun hstop =>
    ⟨_, step_of_stop hrun hstop, s.halt_run _, s.halt_history _, s.halt_frame _⟩

/-! ### Fetch and decode (R123, R124) -/

/-- A fetch above 0xFFE faults at its first address out of range (R123, R212). -/
theorem State.fetchFault_of_lt {s : State} (h : 0xFFE < s.pc.toNat) :
    s.fetchFault = some (if s.pc.toNat ≤ 0xFFF then 0x1000 else s.pc.toNat) :=
  if_pos h

/-- Phases 3 to 5 after a fetch that faults raise that fault (R219). -/
theorem State.runInstruction_of_fetchFault {s : State} {a : Nat} (h : s.fetchFault = some a) :
    s.runInstruction = .next (s.raise (.addressFetch a s.pc)) := by
  simp [State.runInstruction, State.fetchDecode, h]

/-- Settles O25: the ready state has the same `pc`, and its fetch raises the fault. -/
theorem fetchOutsideMemoryFaults : Obligations.FetchOutsideMemoryFaults := by
  intro s hrun hstop hpc
  rw [← s.ready_pc] at hpc ⊢
  exact ⟨_, (step_of_no_stop hrun hstop).trans
    (State.runInstruction_of_fetchFault (State.fetchFault_of_lt hpc)), s.ready.raise_faultsWith _⟩

/-- Two bytes that decode to `i` make a word that decodes to `i` (R61, R90). -/
theorem decodeWord_of_decode {b1 b0 : Byte} {i : Instr} (h : decode [b1, b0] = .ok (i, [])) :
    decodeWord (wordOfBytes b1 b0) = .ok i := by
  simp only [decode] at h
  split at h <;> cases h
  assumption

/-- Settles O22: the two bytes at `pc` are the word that the cycle fetches. -/
theorem stepRunsTheDecodedInstruction : Obligations.StepRunsTheDecodedInstruction :=
  fun s _ hrun hstop hpc hdec =>
    ⟨step_of_willRun ⟨⟨hrun, hstop, hpc⟩, decodeWord_of_decode hdec⟩, s.ready_frame,
      s.ready_inputs⟩

/-- Settles O27: get-delay reads the `DT` of the ready state, which the drain has brought to 0. -/
theorem getDelayReadsZeroInEveryCycle : Obligations.GetDelayReadsZeroInEveryCycle := by
  intro s x h
  refine ⟨(s.ready.setV x s.ready.dt).advance, step_of_willRun h, ?_, ?_, ?_⟩
  · rw [State.getV_advance, State.getV_setV, if_pos rfl, State.ready_dt]
  · rw [State.advance_pc, State.setV_pc, State.ready_pc]
  · rw [State.advance_ticks, State.setV_ticks, State.ready_ticks]

/-! ### The hold of wait-key (R128, R202) -/

/-- A sample lifts the hold unless it shows no key pressed (R202). -/
theorem chosenKey_eq_none_iff {k : Config.KeySample} : chosenKey k = none ↔ k.keys = 0 := by
  refine ⟨fun h => BitVec.eq_of_getLsbD_eq fun j hj => ?_, fun h => ?_⟩
  · simpa using chosenKey_eq_none h ⟨j, hj⟩
  · by_contra hne
    obtain ⟨key, hkey⟩ := Option.ne_none_iff_exists'.1 hne
    have hp := pressed_of_chosenKey hkey
    simp [h] at hp

/-- The hold outlasts the listed samples iff none shows a pressed key. -/
theorem awaitKey_eq_none_iff {ks : List Config.KeySample} :
    awaitKey ks = none ↔ NoKeyListed ks := by
  induction ks with
  | nil => simp [awaitKey, NoKeyListed]
  | cons k ks ih =>
    rw [NoKeyListed, List.forall_mem_cons, ← chosenKey_eq_none_iff, ← NoKeyListed, ← ih, awaitKey]
    cases chosenKey k <;> simp

/-- The hold passes over samples without a pressed key and ends at the first one with one, whose pressed
key it answers (R202, D13). -/
theorem exists_awaitKey_append {before rest : List Config.KeySample} {k : Config.KeySample}
    (hb : NoKeyListed before) (hk : k.keys ≠ 0) :
    ∃ key, awaitKey (before ++ k :: rest) = some (key, rest) ∧ k.keys.getLsbD key.val = true := by
  induction before with
  | nil =>
    obtain ⟨key, hkey⟩ := Option.ne_none_iff_exists'.1 (mt chosenKey_eq_none_iff.1 hk)
    exact ⟨key, by simp [awaitKey, hkey], pressed_of_chosenKey hkey⟩
  | cons j before ih =>
    obtain ⟨hj, hb⟩ := List.forall_mem_cons.1 hb
    obtain ⟨key, hkey, hp⟩ := ih hb
    exact ⟨key, by simpa [awaitKey, chosenKey_eq_none_iff.2 hj] using hkey, hp⟩

/-! ### The outcomes of wait-key (R128, R202) -/

/-- The state in which wait-key has answered `key` and left the input record `inp`. -/
def State.answerKey (s : State) (x : Reg) (key : Key) (inp : Inputs) : State :=
  (({ s with inputs := inp } : State).setV x (keyByte key)).advance

theorem toNat_keyByte (k : Key) : (keyByte k).toNat = k.val := by
  rw [keyByte, BitVec.toNat_ofNat]
  omega

theorem State.toNat_getV_answerKey (s : State) (x : Reg) (key : Key) (inp : Inputs) :
    ((s.answerKey x key inp).getV x).toNat = key.val := by
  rw [State.answerKey, State.getV_advance, State.getV_setV, if_pos rfl, toNat_keyByte]

theorem State.answerKey_frame (s : State) (x : Reg) (key : Key) (inp : Inputs) :
    AgreeOutside (fun p => p = .v x ∨ p = .pc ∨ p = .inputs) s (s.answerKey x key inp) := by
  intro p hp
  refine ((s.inputs_frame inp).trans (State.setV_frame _ x (keyByte key))).trans
    (State.setPc_frame _ _) p ?_
  tauto

/-- wait-key answers the key of the first sample that shows one (R202). -/
theorem execWaitKey_of_awaitKey {x : Reg} {s : State} {key : Key} {rest : List Config.KeySample}
    (h : awaitKey s.inputs.keys = some (key, rest)) :
    exec (.waitKey x) s = .next (s.answerKey x key (s.setKeys rest).inputs) := by
  simp only [exec, execWaitKey, h]
  rfl

/-- With no pressed key listed a live keypad answers a free key (D13). -/
theorem execWaitKey_of_live {x : Reg} {s : State} (hk : NoKeyListed s.inputs.keys)
    (hp : s.inputs.keypad = .live) :
    exec (.waitKey x) s = .next (s.answerKey x (Config.waitKeyDraw s.inputs.draws)
      (s.setKeys []).countDraw.inputs) := by
  simp only [exec, execWaitKey, awaitKey_eq_none_iff.2 hk, hp]
  rfl

/-- With no pressed key listed and an idle keypad the engine waits for ever (R128, R247). -/
theorem execWaitKey_of_idle {x : Reg} {s : State} (hk : NoKeyListed s.inputs.keys)
    (hp : s.inputs.keypad = .idle) : exec (.waitKey x) s = .fault .waitKeyHang := by
  simp only [exec, execWaitKey, awaitKey_eq_none_iff.2 hk, hp]

/-- wait-key completes, or it hangs (R128). -/
theorem execWaitKey_cases (x : Reg) (s : State) :
    (∃ t, exec (.waitKey x) s = .next t) ∨ s.inputs.keypad = .idle ∧ NoKeyListed s.inputs.keys := by
  cases ha : awaitKey s.inputs.keys with
  | some a => exact .inl ⟨_, execWaitKey_of_awaitKey ha⟩
  | none =>
    have hk := awaitKey_eq_none_iff.1 ha
    cases hp : s.inputs.keypad with
    | live => exact .inl ⟨_, execWaitKey_of_live hk hp⟩
    | idle => exact .inr ⟨rfl, hk⟩

/-! ### Every other instruction completes (R128) -/

/-- A guarded access has a next state, faulted or not. -/
theorem State.exists_guardData_next (s t : State) (n : Nat) : ∃ u, s.guardData n t = .next u := by
  rcases s.guardData_cases t n with ⟨_, _, h⟩ | ⟨_, h⟩ <;> exact ⟨_, h⟩

/-- Every instruction but wait-key has a next state: its own, or the one a raised fault leaves. -/
theorem exists_exec_next {i : Instr} (hi : ∀ x, i ≠ .waitKey x) (s : State) :
    ∃ t, exec i s = .next t := by
  cases i with
  | waitKey x => exact absurd rfl (hi x)
  | call nnn =>
    by_cases hs : s.sp.val < 16
    · exact ⟨_, dif_pos hs⟩
    · exact ⟨_, dif_neg hs⟩
  | skipKeyPressed x | skipKeyNotPressed x =>
    simp only [exec, execSkipKeyPressed, execSkipKeyNotPressed]
    split <;> exact ⟨_, rfl⟩
  | draw _ _ _ | bcd _ | storeRegs _ | loadRegs _ => exact s.exists_guardData_next _ _
  | _ => exact ⟨_, rfl⟩

/-- Settles O20: wait-key hangs in the one case named, and every other instruction completes. -/
theorem onlyAHeldWaitKeyHasNoNextState : Obligations.OnlyAHeldWaitKeyHasNoNextState := by
  refine ⟨fun x s hp hk => execWaitKey_of_idle hk hp, fun i s => ?_⟩
  by_cases hi : ∃ x, i = .waitKey x
  · obtain ⟨x, rfl⟩ := hi
    rcases execWaitKey_cases x s with hnext | ⟨hp, hk⟩
    · exact .inl hnext
    · exact .inr ⟨⟨x, rfl⟩, hp, hk, execWaitKey_of_idle hk hp⟩
  · exact .inl (exists_exec_next (not_exists.1 hi) s)

/-- Every word Fx0A is wait-key Vx (R98, D23). -/
theorem waitKey_encodedAs : EncodedAs 0xF0FF 0xF00A (fun op => .waitKey (opX op)) := by
  intro op h
  obtain ⟨hg, hl⟩ := (selects_F0FF op 0xF 0x0A (by decide) (by decide)).1 h
  simp [decodeWord, decodeGroupF, hg, hl]

/-- Settles O58: the hold ends at the first pressed sample, or at a free key of a live keypad, and
either way only the answer is written. -/
theorem waitKeyWritesAPressedKey : Obligations.WaitKeyWritesAPressedKey := by
  refine ⟨waitKey_encodedAs, fun x s => ⟨fun before k rest hkeys hb hk => ?listed,
    fun hk hp => ?live⟩⟩
  case listed =>
    obtain ⟨key, hawait, hpressed⟩ := exists_awaitKey_append (rest := rest) hb hk
    rw [← hkeys] at hawait
    exact ⟨_, key, execWaitKey_of_awaitKey hawait, hpressed, s.toNat_getV_answerKey _ _ _, rfl, rfl,
      s.answerKey_frame _ _ _⟩
  case live =>
    exact ⟨_, _, execWaitKey_of_live hk hp, s.toNat_getV_answerKey _ _ _, rfl, rfl,
      s.answerKey_frame _ _ _⟩

end Sys2Proof.Machine

/-! PROOFS. The statements of 41_control_transfer.md: jump (R141), jump-offset (R143), call (R142, R214)
and return (R140, R217), and a return after a call. -/

namespace Sys2Proof.Machine

/-! ### The encodings keyed by the group alone (R91, R95) -/

/-- A row of mask 0xF000 needs the decoder's answer on the words of its group alone (R93). -/
theorem encodedAs_group {g : Nat} {i : Word → Instr} (hg : g < 16)
    (h : ∀ op, opGroup op = g → decodeWord op = .ok (i op)) :
    EncodedAs 0xF000 (BitVec.ofNat 16 (g * 0x1000)) i :=
  fun op hop => h op ((selects_F000 op g hg).1 hop)

/-- Every word 1nnn is jump nnn (R95). -/
theorem jump_encodedAs : EncodedAs 0xF000 0x1000 (fun op => .jump (opNNN op)) :=
  encodedAs_group (g := 0x1) (by decide) fun op hg => by simp [decodeWord, hg]

/-- Every word 2nnn is call nnn (R95). -/
theorem call_encodedAs : EncodedAs 0xF000 0x2000 (fun op => .call (opNNN op)) :=
  encodedAs_group (g := 0x2) (by decide) fun op hg => by simp [decodeWord, hg]

/-- Every word Bnnn is jump-offset nnn (R95, D23). -/
theorem jumpOffset_encodedAs : EncodedAs 0xF000 0xB000 (fun op => .jumpOffset (opNNN op)) :=
  encodedAs_group (g := 0xB) (by decide) fun op hg => by simp [decodeWord, hg]

/-- Every word of group 0 with last nibble E is return, whatever bits 11:4 hold (R94, R99, D23). -/
theorem ret_encodedAs : EncodedAs 0xF00F 0x000E (fun _ => .ret) := by
  intro op h
  obtain ⟨hg, hn⟩ := (selects_F00F op 0x0 0xE (by decide) (by decide)).1 h
  simp [decodeWord, decodeGroup0, hg, hn]

/-! ### Targets of a jump (R141, R143) -/

theorem toNat_addressOperand {nnn : Nat} (h : nnn < 0x1000) : (addressOperand nnn).toNat = nnn := by
  rw [addressOperand, BitVec.toNat_ofNat]
  omega

/-- A 12-bit address and a byte add up without a wrap, and no mask is applied (R143, D1). -/
theorem State.toNat_offsetTarget (s : State) {nnn : Nat} (h : nnn < 0x1000) :
    (s.offsetTarget nnn).toNat = nnn + (s.getV 0).toNat := by
  have hv := (s.getV 0).isLt
  rw [State.offsetTarget, zext16, BitVec.toNat_add, toNat_addressOperand h, BitVec.toNat_setWidth]
  omega

/-! ### The call stack (R28, R30) -/

/-- A frame may be widened: more parts may count as written. -/
theorem AgreeOutside.mono {v w : Part → Prop} {s t : State} (h : AgreeOutside v s t)
    (hvw : ∀ p, v p → w p) : AgreeOutside w s t :=
  fun p hp => h p fun hv => hp (hvw p hv)

/-- A push at `SP = k` writes slot `k` and `SP` alone (R30). -/
theorem State.push_frame_slot {s : State} {k : Fin 16} (hk : s.sp.val = k.val) (w : Word)
    (h : s.sp.val < 16) :
    AgreeOutside (fun p => p = .stack k ∨ p = .sp) s (s.push w h) := by
  refine (s.push_frame w h).mono fun p hp => ?_
  rcases hp with rfl | ⟨j, hj, rfl⟩
  · exact .inr rfl
  · exact .inl (congrArg Part.stack (Fin.ext (hj.trans hk)))

theorem State.getSlot_push_self {s : State} {k : Fin 16} (hk : s.sp.val = k.val) (w : Word)
    (h : s.sp.val < 16) : (s.push w h).getSlot k = w := by
  rw [State.getSlot_push, if_pos hk.symm]

/-- A pop after a push at `SP = k` reads slot `k` (R30). -/
theorem State.poppedSp_push {s : State} {k : Fin 16} (hk : s.sp.val = k.val) (w : Word)
    (h : s.sp.val < 16) : (s.push w h).poppedSp = k :=
  Fin.ext hk

/-- A pop after a push restores `SP`, so the pair writes the slot alone (R30). -/
theorem State.pop_push_frame {s : State} {k : Fin 16} (hk : s.sp.val = k.val) (w : Word)
    (h : s.sp.val < 16) : AgreeOutside (fun p => p = .stack k) s (s.push w h).pop := by
  intro p hp
  by_cases hsp : p = .sp
  · subst hsp
    rw [Part.same, State.pop_sp, State.poppedSp_push hk]
    exact Fin.ext hk.symm
  · refine (State.push_frame_slot hk w h).trans (State.pop_frame _) p ?_
    tauto

/-! ### The outcomes of call (R142, R214) -/

/-- call with a free slot pushes the return address and jumps (R142). -/
theorem execCall_of_lt {s : State} (nnn : Nat) (h : s.sp.val < 16) :
    exec (.call nnn) s = .next ((s.push (s.pc + 2) h).setPc (addressOperand nnn)) :=
  dif_pos h

/-- call on a full stack raises StackOverflow (R214, D3). -/
theorem execCall_of_full {s : State} (nnn : Nat) (h : s.sp.val = 16) :
    exec (.call nnn) s = .next (s.raise (.stackOverflow s.pc)) :=
  dif_neg (by omega)

/-! ### The obligations -/

/-- Settles O33: below 16 the push fills slot `SP` and the jump sets `pc`; at 16 the fault entry is all
that happens. -/
theorem callPushesOrOverflows : Obligations.CallPushesOrOverflows := by
  refine ⟨call_encodedAs, fun nnn s hn => ⟨fun k hk => ?free, fun hfull => ?full⟩⟩
  case free =>
    have hlt : s.sp.val < 16 := hk.trans_lt k.isLt
    refine ⟨_, execCall_of_lt nnn hlt, ?_, rfl, toNat_addressOperand hn, ?_⟩
    · rw [State.getSlot_setPc, State.getSlot_push_self hk]
    · refine ((State.push_frame_slot hk _ hlt).trans (State.setPc_frame _ _)).mono fun p hp => ?_
      tauto
  case full => exact ⟨_, execCall_of_full nnn hfull, s.raise_faultsWith _⟩

/-- Settles O36: the return pops the slot the call pushed, and of the pair's writes `SP` is restored. -/
theorem returnUndoesCall : Obligations.ReturnUndoesCall := by
  intro nnn s k hk
  have hlt : s.sp.val < 16 := hk.trans_lt k.isLt
  refine ⟨_, _, execCall_of_lt nnn hlt, rfl, ?pc, ?frame⟩
  case pc =>
    change (s.push (s.pc + 2) hlt).getSlot (s.push (s.pc + 2) hlt).poppedSp = s.pc + 2
    rw [State.poppedSp_push hk, State.getSlot_push_self hk]
  case frame =>
    -- The call's jump is overwritten by the return's, so the pair is a push, a pop and one jump.
    change AgreeOutside _ s ((s.push (s.pc + 2) hlt).pop.setPc _)
    exact ((State.pop_push_frame hk _ hlt).trans (State.setPc_frame _ _)).mono fun _ => Or.symm

/-- Settles O32: the target is the 12-bit address itself, and `pc` is all that is written. -/
theorem jumpSetsThePc : Obligations.JumpSetsThePc :=
  ⟨jump_encodedAs, fun _ s hn => ⟨_, rfl, toNat_addressOperand hn, s.setPc_frame _⟩⟩

/-- Settles O34: the clamped `SP - 1` names the slot and is the new `SP`. -/
theorem returnPopsThePc : Obligations.ReturnPopsThePc :=
  ⟨ret_encodedAs, fun s => ⟨_, s.poppedSp, rfl, (Nat.max_zero _).symm, rfl, rfl,
    (s.pop_frame.trans (State.setPc_frame _ _)).mono fun _ => Or.symm⟩⟩

/-- Settles O37: the sum of the address and `V[0]` fits a word unmasked, and `pc` is all that is
written. -/
theorem jumpOffsetAddsVZeroUnmasked : Obligations.JumpOffsetAddsVZeroUnmasked :=
  ⟨jumpOffset_encodedAs, fun _ s hn => ⟨_, rfl, s.toNat_offsetTarget hn, s.setPc_frame _⟩⟩

end Sys2Proof.Machine

/-! PROOFS. The statements of 42_conditional_skip.md: skip-eq-imm (R150), skip-ne-imm (R151),
skip-eq-reg (R152) and skip-ne-reg (R153). -/

namespace Sys2Proof.Machine

/-! ### The encodings (R95) -/

/-- Every word 3xkk is skip-eq-imm Vx,kk (R95). -/
theorem skipEqImm_encodedAs : EncodedAs 0xF000 0x3000 (fun op => .skipEqImm (opX op) (opKK op)) :=
  encodedAs_group (g := 0x3) (by decide) fun op hg => by simp [decodeWord, hg]

/-- Every word 4xkk is skip-ne-imm Vx,kk (R95, D23). -/
theorem skipNeImm_encodedAs : EncodedAs 0xF000 0x4000 (fun op => .skipNeImm (opX op) (opKK op)) :=
  encodedAs_group (g := 0x4) (by decide) fun op hg => by simp [decodeWord, hg]

/-- Every word of group 5 is skip-eq-reg Vx,Vy, whatever its last nibble (R95, R99, D23). -/
theorem skipEqReg_encodedAs : EncodedAs 0xF000 0x5000 (fun op => .skipEqReg (opX op) (opY op)) :=
  encodedAs_group (g := 0x5) (by decide) fun op hg => by simp [decodeWord, hg]

/-- Every word of group 9 is skip-ne-reg Vx,Vy, whatever its last nibble (R95, R99, D23). -/
theorem skipNeReg_encodedAs : EncodedAs 0xF000 0x9000 (fun op => .skipNeReg (opX op) (opY op)) :=
  encodedAs_group (g := 0x9) (by decide) fun op hg => by simp [decodeWord, hg]

/-! ### The end of a conditional skip (R126) -/

/-- A conditional skip writes `pc` alone, whether it skips or not. -/
theorem State.skipIf_frame (s : State) (c : Bool) : AgreeOutside (· = .pc) s (s.skipIf c) :=
  s.setPc_frame _

/-- A skip on equal bytes compares their unsigned values. -/
theorem State.skipIf_beq_pc (s : State) (a b : Byte) :
    (s.skipIf (a == b)).pc = s.pc + (if a.toNat = b.toNat then 4 else 2) := by
  rw [State.skipIf_pc, apply_ite (s.pc + ·)]
  exact if_congr (beq_iff_eq.trans BitVec.toNat_inj.symm) rfl rfl

/-- A skip on unequal bytes compares their unsigned values. -/
theorem State.skipIf_bne_pc (s : State) (a b : Byte) :
    (s.skipIf (a != b)).pc = s.pc + (if a.toNat = b.toNat then 2 else 4) := by
  rw [State.skipIf_pc, apply_ite (s.pc + ·)]
  exact (if_congr (bne_iff_ne.trans BitVec.toNat_ne) rfl rfl).trans (ite_not ..)

/-! ### The obligations -/

/-- Settles O38: the skip is the one on equal bytes, and `pc` is all that is written. -/
theorem skipEqImmSkipsOnEqual : Obligations.SkipEqImmSkipsOnEqual :=
  ⟨skipEqImm_encodedAs, fun _ _ s => ⟨_, rfl, s.skipIf_beq_pc _ _, s.skipIf_frame _⟩⟩

/-- Settles O39: each skip is the one on equal or on unequal bytes, and `pc` is all that is written. -/
theorem otherSkipsCompareTheirOperands : Obligations.OtherSkipsCompareTheirOperands := by
  refine ⟨skipNeImm_encodedAs, skipEqReg_encodedAs, skipNeReg_encodedAs, fun x y kk s => ⟨?_, ?_, ?_⟩⟩
  · exact ⟨_, rfl, s.skipIf_bne_pc _ _, s.skipIf_frame _⟩
  · exact ⟨_, rfl, s.skipIf_beq_pc _ _, s.skipIf_frame _⟩
  · exact ⟨_, rfl, s.skipIf_bne_pc _ _, s.skipIf_frame _⟩

end Sys2Proof.Machine

/-! PROOFS. The statements of 43_register_alu.md: register load (R161, R163), arithmetic
(R162, R167, R168, R170), logic (R164 to R166), shifts (R169, R171) and rand (R172). -/

namespace Sys2Proof.Machine

/-! ### The encodings (R95, R96) -/

/-- Every word 6xkk is set-imm Vx,kk (R95, D23). -/
theorem setImm_encodedAs : EncodedAs 0xF000 0x6000 (fun op => .setImm (opX op) (opKK op)) :=
  encodedAs_group (g := 0x6) (by decide) fun op hg => by simp [decodeWord, hg]

/-- Every word 7xkk is add-imm Vx,kk (R95, D23). -/
theorem addImm_encodedAs : EncodedAs 0xF000 0x7000 (fun op => .addImm (opX op) (opKK op)) :=
  encodedAs_group (g := 0x7) (by decide) fun op hg => by simp [decodeWord, hg]

/-- Every word Cxkk is rand Vx,kk (R95, D23). -/
theorem rand_encodedAs : EncodedAs 0xF000 0xC000 (fun op => .rand (opX op) (opKK op)) :=
  encodedAs_group (g := 0xC) (by decide) fun op hg => by simp [decodeWord, hg]

/-- A row of group 8 needs the group decoder's answer on the words with its last nibble (R96). -/
theorem encodedAs_group8 {n : Nat} {i : Word → Instr} (hn : n < 16)
    (h : ∀ op, opN op = n → decodeGroup8 op = .ok (i op)) :
    EncodedAs 0xF00F (BitVec.ofNat 16 (0x8 * 0x1000 + n)) i := by
  intro op hop
  obtain ⟨hg, hl⟩ := (selects_F00F op 0x8 n (by decide) hn).1 hop
  have hword : decodeWord op = decodeGroup8 op := by simp [decodeWord, hg]
  exact hword.trans (h op hl)

/-- Every word 8xy0 is move Vx,Vy (R96, D23). -/
theorem move_encodedAs : EncodedAs 0xF00F 0x8000 (fun op => .move (opX op) (opY op)) :=
  encodedAs_group8 (n := 0x0) (by decide) fun op hn => by simp [decodeGroup8, hn]

/-- Every word 8xy1 is or Vx,Vy (R96, D23). -/
theorem or_encodedAs : EncodedAs 0xF00F 0x8001 (fun op => .or (opX op) (opY op)) :=
  encodedAs_group8 (n := 0x1) (by decide) fun op hn => by simp [decodeGroup8, hn]

/-- Every word 8xy2 is and Vx,Vy (R96, D23). -/
theorem and_encodedAs : EncodedAs 0xF00F 0x8002 (fun op => .and (opX op) (opY op)) :=
  encodedAs_group8 (n := 0x2) (by decide) fun op hn => by simp [decodeGroup8, hn]

/-- Every word 8xy3 is xor Vx,Vy (R96, D23). -/
theorem xor_encodedAs : EncodedAs 0xF00F 0x8003 (fun op => .xor (opX op) (opY op)) :=
  encodedAs_group8 (n := 0x3) (by decide) fun op hn => by simp [decodeGroup8, hn]

/-- Every word 8xy4 is add-reg Vx,Vy (R96). -/
theorem addReg_encodedAs : EncodedAs 0xF00F 0x8004 (fun op => .addReg (opX op) (opY op)) :=
  encodedAs_group8 (n := 0x4) (by decide) fun op hn => by simp [decodeGroup8, hn]

/-- Every word 8xy5 is sub Vx,Vy (R96). -/
theorem sub_encodedAs : EncodedAs 0xF00F 0x8005 (fun op => .sub (opX op) (opY op)) :=
  encodedAs_group8 (n := 0x5) (by decide) fun op hn => by simp [decodeGroup8, hn]

/-- Every word of group 8 with last nibble 6 is shr Vx, whatever `y` (R96, R99, D23). -/
theorem shr_encodedAs : EncodedAs 0xF00F 0x8006 (fun op => .shr (opX op)) :=
  encodedAs_group8 (n := 0x6) (by decide) fun op hn => by simp [decodeGroup8, hn]

/-- Every word 8xy7 is subn Vx,Vy (R96, D23). -/
theorem subn_encodedAs : EncodedAs 0xF00F 0x8007 (fun op => .subn (opX op) (opY op)) :=
  encodedAs_group8 (n := 0x7) (by decide) fun op hn => by simp [decodeGroup8, hn]

/-- Every word of group 8 with last nibble E is shl Vx, whatever `y` (R96, R99, D23). -/
theorem shl_encodedAs : EncodedAs 0xF00F 0x800E (fun op => .shl (opX op)) :=
  encodedAs_group8 (n := 0xE) (by decide) fun op hn => by simp [decodeGroup8, hn]

/-! ### A register write and the advance -/

theorem State.getV_setV_self (s : State) (x : Reg) (b : Byte) : (s.setV x b).getV x = b := by
  rw [State.getV_setV, if_pos rfl]

theorem State.setV_advance_frame (s : State) (x : Reg) (b : Byte) :
    AgreeOutside (fun p => p = .v x ∨ p = .pc) s (s.setV x b).advance :=
  (s.setV_frame x b).trans (State.setPc_frame _ _)

/-! ### A result with a flag and the advance (R160, D9) -/

/-- The result is written last, so it survives in VF too. -/
theorem State.getV_writeFlagged_result (s : State) (x : Reg) (f r : Byte) :
    (s.writeFlagged x f r).getV x = r := by
  rw [State.getV_writeFlagged, if_pos rfl]

/-- The flag survives where the result goes to another register. -/
theorem State.getV_writeFlagged_flag (s : State) {x : Reg} (f r : Byte) (hx : x ≠ 15) :
    (s.writeFlagged x f r).getV 15 = f := by
  rw [State.getV_writeFlagged, if_neg hx.symm, flagReg, if_pos rfl]

theorem State.writeFlagged_advance_frame (s : State) (x : Reg) (f r : Byte) :
    AgreeOutside (fun p => p = .v x ∨ p = .v 15 ∨ p = .pc) s (s.writeFlagged x f r).advance :=
  ((s.writeFlagged_frame x f r).trans (State.setPc_frame _ _)).mono fun _ hp =>
    or_left_comm.1 (or_assoc.1 hp)

/-! ### The values of the flags (R23) -/

theorem flagByte_decide (p : Prop) [Decidable p] : flagByte (decide p) = if p then 1 else 0 := by
  simp only [flagByte, decide_eq_true_eq]

theorem toNat_flagByte (c : Bool) : (flagByte c).toNat = c.toNat := by
  cases c <;> rfl

theorem toNat_lowBitFlag (a : Byte) : (lowBitFlag a).toNat = a.toNat % 2 := by
  rw [lowBitFlag, toNat_flagByte, BitVec.getLsbD, Nat.toNat_testBit, pow_zero, Nat.div_one]

theorem toNat_highBitFlag (a : Byte) : (highBitFlag a).toNat = a.toNat / 128 := by
  rw [highBitFlag, toNat_flagByte, BitVec.getLsbD, Nat.toNat_testBit]
  omega

/-! ### The values of the results -/

/-- A byte difference is the integer difference modulo 256 (R168, R170). -/
theorem toNat_byte_sub (a b : Byte) :
    ((a - b).toNat : Int) = ((a.toNat : Int) - b.toNat) % 256 := by
  rw [BitVec.toNat_sub]
  omega

/-- A shift right by one halves (R169). -/
theorem toNat_byte_shiftRight_one (a : Byte) : (a >>> 1).toNat = a.toNat / 2 := by
  rw [BitVec.toNat_ushiftRight, Nat.shiftRight_eq_div_pow, pow_one]

/-- A shift left by one doubles modulo 256 (R171). -/
theorem toNat_byte_shiftLeft_one (a : Byte) : (a <<< 1).toNat = 2 * a.toNat % 256 := by
  rw [BitVec.toNat_shiftLeft, Nat.shiftLeft_eq, pow_one, mul_comm]

/-- A masked byte has no bit outside the mask (R172). -/
theorem and_mask_and_not (a m : Byte) : a &&& m &&& ~~~m = 0 := by
  rw [BitVec.and_assoc, BitVec.and_not_self]
  exact BitVec.and_zero

/-! ### The sample of rand (R39, R172) -/

theorem State.randSample_of_cons {s : State} {r : Byte} {rest : List Byte}
    (h : s.inputs.rands = r :: rest) : s.randSample = r := by
  simp only [State.randSample, h]

theorem State.afterRand_inputs_of_cons {s : State} {r : Byte} {rest : List Byte}
    (h : s.inputs.rands = r :: rest) : s.afterRand.inputs = { s.inputs with rands := rest } := by
  simp only [State.afterRand, h]

theorem State.afterRand_inputs_of_nil {s : State} (h : s.inputs.rands = []) :
    s.afterRand.inputs = { s.inputs with draws := s.inputs.draws + 1 } := by
  simp only [State.afterRand, h, State.countDraw]

theorem State.afterRand_frame (s : State) : AgreeOutside (· = .inputs) s s.afterRand := by
  rw [State.afterRand_eq]
  exact s.inputs_frame _

/-! ### The outcome of sub and subn (R168, R170) -/

/-- An instruction that ends with a difference `a - b` and its flag, whichever register each operand
came from. -/
theorem exec_difference {i : Instr} {x : Reg} {a b : Byte} {s : State}
    (h : exec i s = .next (s.writeFlagged x (greaterFlag a b) (a - b)).advance) :
    ∃ t, exec i s = .next t ∧
      ((t.getV x).toNat : Int) = ((a.toNat : Int) - b.toNat) % 256 ∧
      (x ≠ 15 → t.getV 15 = if b.toNat < a.toNat then 1 else 0) ∧
      t.pc = s.pc + 2 ∧ AgreeOutside (fun p => p = .v x ∨ p = .v 15 ∨ p = .pc) s t := by
  refine ⟨_, h, ?difference, fun hx => ?flag, rfl, s.writeFlagged_advance_frame x _ _⟩
  case difference => rw [State.getV_advance, State.getV_writeFlagged_result, toNat_byte_sub]
  case flag => exact (s.getV_writeFlagged_flag _ _ hx).trans (flagByte_decide _)

/-! ### The obligations -/

/-- Settles O40: `V[x]` reads back the byte or the old `V[y]`, and the rest is the frame of a
register write. -/
theorem setImmAndMoveLoadARegister : Obligations.SetImmAndMoveLoadARegister := by
  refine ⟨setImm_encodedAs, move_encodedAs, fun x y kk s => ⟨?_, ?_⟩⟩
  · exact ⟨_, rfl, s.getV_setV_self x _, rfl, s.setV_advance_frame x _⟩
  · exact ⟨_, rfl, s.getV_setV_self x _, rfl, s.setV_advance_frame x _⟩

/-- Settles O41: `V[x]` reads back the byte sum, and no register but `V[x]` is written. -/
theorem addImmWrapsWithoutAFlag : Obligations.AddImmWrapsWithoutAFlag := by
  refine ⟨addImm_encodedAs, fun x kk s => ⟨_, rfl, ?value, rfl, s.setV_advance_frame x _⟩⟩
  case value =>
    rw [State.getV_advance, State.getV_setV_self]
    exact BitVec.toNat_add _ _

/-- Settles O42: each bit of the result is the library's fact about the operation. -/
theorem logicInstructionsCombineBits : Obligations.LogicInstructionsCombineBits := by
  refine ⟨or_encodedAs, and_encodedAs, xor_encodedAs, fun x y s => ⟨?_, ?_, ?_⟩⟩
  · refine ⟨_, rfl, rfl, fun k => ?_, s.setV_advance_frame x _⟩
    rw [State.getV_advance, State.getV_setV_self, BitVec.getLsbD_or]
  · refine ⟨_, rfl, rfl, fun k => ?_, s.setV_advance_frame x _⟩
    rw [State.getV_advance, State.getV_setV_self, BitVec.getLsbD_and]
  · refine ⟨_, rfl, rfl, fun k => ?_, s.setV_advance_frame x _⟩
    rw [State.getV_advance, State.getV_setV_self, BitVec.getLsbD_xor]

/-- Settles O43: the result is the byte sum, and the flag is the carry of the sum of numbers. -/
theorem addRegGivesSumAndCarry : Obligations.AddRegGivesSumAndCarry := by
  refine ⟨addReg_encodedAs, fun x y s =>
    ⟨_, rfl, ?sum, fun hx => ?carry, rfl, s.writeFlagged_advance_frame x _ _⟩⟩
  case sum =>
    rw [State.getV_advance, State.getV_writeFlagged_result]
    exact BitVec.toNat_add _ _
  case carry => exact (s.getV_writeFlagged_flag _ _ hx).trans (flagByte_decide _)

/-- Settles O44: sub and subn are one outcome with the operands exchanged. -/
theorem subtractionsGiveDifferenceAndStrictFlag :
    Obligations.SubtractionsGiveDifferenceAndStrictFlag :=
  ⟨sub_encodedAs, subn_encodedAs, fun _ _ _ => ⟨exec_difference rfl, exec_difference rfl⟩⟩

/-- Settles O45: the result is the shifted byte, and the flag is the bit it lost. -/
theorem shiftsGiveResultAndBitShiftedOut : Obligations.ShiftsGiveResultAndBitShiftedOut := by
  refine ⟨shr_encodedAs, shl_encodedAs, fun x s => ⟨?_, ?_⟩⟩
  · refine ⟨_, rfl, ?_, fun hx => ?_, rfl, s.writeFlagged_advance_frame x _ _⟩
    · rw [State.getV_advance, State.getV_writeFlagged_result, toNat_byte_shiftRight_one]
    · rw [State.getV_advance, State.getV_writeFlagged_flag _ _ _ hx, toNat_lowBitFlag]
  · refine ⟨_, rfl, ?_, fun hx => ?_, rfl, s.writeFlagged_advance_frame x _ _⟩
    · rw [State.getV_advance, State.getV_writeFlagged_result, toNat_byte_shiftLeft_one]
    · rw [State.getV_advance, State.getV_writeFlagged_flag _ _ _ hx, toNat_highBitFlag]

/-- Settles O46: the masked sample has no bit outside the mask, and taking it changes the inputs
alone. -/
theorem randMasksOneSample : Obligations.RandMasksOneSample := by
  refine ⟨rand_encodedAs, fun x kk s => ?_⟩
  have hv : (s.afterRand.setV x (s.randSample &&& kk)).advance.getV x = s.randSample &&& kk :=
    s.afterRand.getV_setV_self x _
  refine ⟨_, rfl, hv, ?mask, ?pc, fun r rest h => ?listed, fun h => ?drawn, ?frame⟩
  case mask => rw [hv, and_mask_and_not]
  case pc => exact congrArg (· + 2) (s.afterRand_frame .pc nofun)
  case listed => exact ⟨State.randSample_of_cons h, State.afterRand_inputs_of_cons h⟩
  case drawn => exact State.afterRand_inputs_of_nil h
  case frame =>
    exact (s.afterRand_frame.trans (State.setV_advance_frame _ _ _)).mono fun _ hp =>
      or_assoc.1 hp.symm

end Sys2Proof.Machine

/-! PROOFS. The statements of 44_index_memory.md: set-index (R180), add-index (R181), sprite-addr (R182),
bcd (R183), store-regs (R184) and load-regs (R185), and a load after a store. -/

namespace Sys2Proof.Machine

/-! ### The encodings (R95, R98) -/

/-- Every word Annn is set-index nnn (R95, D23). -/
theorem setIndex_encodedAs : EncodedAs 0xF000 0xA000 (fun op => .setIndex (opNNN op)) :=
  encodedAs_group (g := 0xA) (by decide) fun op hg => by simp [decodeWord, hg]

/-- A row of group F needs the group decoder's answer on the words with its low byte (R98). -/
theorem encodedAs_groupF {low : Nat} {i : Word → Instr} (hlow : low < 256)
    (h : ∀ op, bits op 7 0 = low → decodeGroupF op = .ok (i op)) :
    EncodedAs 0xF0FF (BitVec.ofNat 16 (0xF * 0x1000 + low)) i := by
  intro op hop
  obtain ⟨hg, hl⟩ := (selects_F0FF op 0xF low (by decide) hlow).1 hop
  have hword : decodeWord op = decodeGroupF op := by simp [decodeWord, hg]
  exact hword.trans (h op hl)

/-- Every word Fx1E is add-index Vx (R98, D23). -/
theorem addIndex_encodedAs : EncodedAs 0xF0FF 0xF01E (fun op => .addIndex (opX op)) :=
  encodedAs_groupF (low := 0x1E) (by decide) fun op hl => by simp [decodeGroupF, hl]

/-- Every word Fx29 is sprite-addr Vx (R98). -/
theorem spriteAddr_encodedAs : EncodedAs 0xF0FF 0xF029 (fun op => .spriteAddr (opX op)) :=
  encodedAs_groupF (low := 0x29) (by decide) fun op hl => by simp [decodeGroupF, hl]

/-- Every word Fx33 is bcd Vx (R98). -/
theorem bcd_encodedAs : EncodedAs 0xF0FF 0xF033 (fun op => .bcd (opX op)) :=
  encodedAs_groupF (low := 0x33) (by decide) fun op hl => by simp [decodeGroupF, hl]

/-- Every word Fx55 is store-regs Vx (R98, D23). -/
theorem storeRegs_encodedAs : EncodedAs 0xF0FF 0xF055 (fun op => .storeRegs (opX op)) :=
  encodedAs_groupF (low := 0x55) (by decide) fun op hl => by simp [decodeGroupF, hl]

/-- Every word Fx65 is load-regs Vx (R98, D23). -/
theorem loadRegs_encodedAs : EncodedAs 0xF0FF 0xF065 (fun op => .loadRegs (opX op)) :=
  encodedAs_groupF (low := 0x65) (by decide) fun op hl => by simp [decodeGroupF, hl]

/-! ### The index register (R27) -/

theorem State.setI_advance_frame (s : State) (w : Word) :
    AgreeOutside (fun p => p = .i ∨ p = .pc) s (s.setI w).advance :=
  (s.setI_frame w).trans (State.setPc_frame _ _)

/-- A word and a byte add up modulo 65536 (R181, D5). -/
theorem toNat_add_zext16 (w : Word) (b : Byte) :
    (w + zext16 b).toNat = (w.toNat + b.toNat) % 65536 := by
  rw [BitVec.toNat_add, zext16, BitVec.toNat_setWidth_of_le (by decide)]

/-- Under the constraint of R6 the glyph address of any byte fits a word (R182). -/
theorem State.toNat_glyphAddr {s : State} (h : s.font.wf = true) (b : Byte) :
    (s.glyphAddr b).toNat = s.font.base + 5 * b.toNat := by
  have hbase : s.font.base + 80 ≤ 0x200 := of_decide_eq_true h
  have hb := b.isLt
  rw [State.glyphAddr, Config.glyphBytes, BitVec.toNat_ofNat]
  omega

/-! ### Accesses to the bytes at `I` up to `I + k` (R65, R213) -/

/-- An access up to `I + k` inside memory leaves the given state. -/
theorem State.guardData_of_dataAddr_le {s : State} (t : State) {k : Nat}
    (h : s.dataAddr k ≤ 0xFFF) : s.guardData (k + 1) t = .next t :=
  s.guardData_ok t (.inr h)

/-- An access up to `I + k` above 0xFFF raises AddressFault(data), whatever it was to write (D22). -/
theorem State.guardData_faultsWith {s : State} (t : State) {k : Nat} (h : 0xFFF < s.dataAddr k) :
    ∃ u, s.guardData (k + 1) t = .next u ∧
      FaultsWith s u (.addressData (max s.i.toNat 0x1000) s.pc) :=
  ⟨_, s.guardData_fault t (Nat.succ_pos k) h, s.raise_faultsWith _⟩

/-! ### The bytes bcd stores (R183) -/

/-- The stored bytes are the decimal digits as numbers: each is below 256. -/
theorem toNat_bcdDigits (b : Byte) :
    (bcdDigits b).map BitVec.toNat = [b.toNat / 100, b.toNat / 10 % 10, b.toNat % 10] := by
  have hb := b.isLt
  simp only [bcdDigits, List.map_cons, List.map_nil, BitVec.toNat_ofNat, List.cons.injEq, and_true]
  omega

/-- After the store of the digits at `I`, the byte at `I + k` is digit `k`. -/
theorem State.readByte_storeBytes_bcdDigits (s : State) (b : Byte) {k : Nat} (hk : k < 3) :
    ((s.storeBytes (s.dataAddr 0) (bcdDigits b)).readByte (s.dataAddr k)).toNat =
      [b.toNat / 100, b.toNat / 10 % 10, b.toNat % 10][k] := by
  have hread := s.readByte_storeBytes_of_lt (s.dataAddr 0) (bs := bcdDigits b) (k := k) hk
  rw [List.getElem_of_eq (toNat_bcdDigits b).symm, List.getElem_map]
  exact congrArg BitVec.toNat hread

/-! ### The registers store-regs stores and load-regs loads (R184, R185) -/

/-- The store of `V[0..x]` at `I` and the advance write the bytes at `I` to `I + x` and `pc`. -/
theorem State.storeRegs_frame (s : State) (x : Reg) :
    AgreeOutside (fun p => (∃ k : Reg, k ≤ x ∧ p = .mem (s.dataAddr k.val)) ∨ p = .pc) s
      (s.storeBytes (s.dataAddr 0) (s.regsUpTo x)).advance := by
  refine ((s.storeBytes_frame _).trans (State.setPc_frame _ _)).mono fun p => Or.imp_left ?_
  rintro ⟨k, hk, rfl⟩
  rw [State.length_regsUpTo] at hk
  exact ⟨⟨k, by omega⟩, Nat.le_of_lt_succ hk, rfl⟩

/-- After the load of `V[0..x]` from `I`, the register `V[k]` holds the byte at `I + k`. -/
theorem State.getV_loadBytes_readBytes (s : State) {x k : Reg} (h : k ≤ x) :
    (s.loadBytes 0 (s.readBytes (s.dataAddr 0) (regCount x))).getV k =
      s.readByte (s.dataAddr k.val) := by
  have hk : k.val < regCount x := Nat.lt_succ_of_le h
  have hlen : 0 + (s.readBytes (s.dataAddr 0) (regCount x)).length ≤ 16 := by
    rw [State.length_readBytes, Nat.zero_add]
    exact x.isLt
  rw [State.getV_loadBytes _ _ _ _ hlen, if_pos (Nat.zero_le _), Nat.sub_zero,
    State.getElem?_readBytes, if_pos hk]
  rfl

/-- The load of `V[0..x]` from `I` and the advance write these registers and `pc`. -/
theorem State.loadRegs_frame (s : State) (x : Reg) :
    AgreeOutside (fun p => (∃ k : Reg, k ≤ x ∧ p = .v k) ∨ p = .pc) s
      (s.loadBytes 0 (s.readBytes (s.dataAddr 0) (regCount x))).advance := by
  have hlen := s.length_readBytes (s.dataAddr 0) (regCount x)
  refine ((s.loadBytes_frame _ (hlen.trans_le x.isLt)).trans (State.setPc_frame _ _)).mono
    fun p => Or.imp_left ?_
  rintro ⟨k, hk, rfl⟩
  rw [hlen] at hk
  exact ⟨k, Nat.le_of_lt_succ hk, rfl⟩

/-! ### The obligations -/

/-- Settles O50: inside memory the three digits are read back where they were stored, and an access
that reaches above it raises the fault. -/
theorem bcdStoresThreeDigitsOrFaults : Obligations.BcdStoresThreeDigitsOrFaults := by
  refine ⟨bcd_encodedAs, fun x s => ⟨fun h => ?_, fun h => State.guardData_faultsWith _ h⟩⟩
  refine ⟨_, State.guardData_of_dataAddr_le _ h, ?hundreds, ?tens, ?units, ?pc, ?frame⟩
  case hundreds => exact s.readByte_storeBytes_bcdDigits _ (k := 0) (by decide)
  case tens => exact s.readByte_storeBytes_bcdDigits _ (k := 1) (by decide)
  case units => exact s.readByte_storeBytes_bcdDigits _ (k := 2) (by decide)
  case pc => rw [State.storeBytes_eq]; rfl
  case frame => exact (s.storeBytes_frame (bcdDigits (s.getV x))).trans (State.setPc_frame _ _)

/-- Settles O51: inside memory each stored register is read back at its address, and an access that
reaches above it raises the fault. -/
theorem storeRegsStoresTheFirstRegistersOrFaults :
    Obligations.StoreRegsStoresTheFirstRegistersOrFaults := by
  refine ⟨storeRegs_encodedAs, fun x s => ⟨fun h => ?_, fun h => State.guardData_faultsWith _ h⟩⟩
  refine ⟨_, State.guardData_of_dataAddr_le _ h, fun k hk => ?value, ?pc, s.storeRegs_frame x⟩
  case value => exact s.readByte_storeBytes_regsUpTo hk
  case pc => rw [State.storeBytes_eq]; rfl

/-- Settles O52: inside memory each loaded register holds the byte at its address, and an access that
reaches above it raises the fault. -/
theorem loadRegsLoadsTheFirstRegistersOrFaults :
    Obligations.LoadRegsLoadsTheFirstRegistersOrFaults := by
  refine ⟨loadRegs_encodedAs, fun x s => ⟨fun h => ?_, fun h => State.guardData_faultsWith _ h⟩⟩
  refine ⟨_, State.guardData_of_dataAddr_le _ h, fun k hk => ?value, ?pc, s.loadRegs_frame x⟩
  case value => exact s.getV_loadBytes_readBytes hk
  case pc => rw [State.loadBytes_eq]; rfl

/-- Settles O53, from what store-regs and load-regs do: the store keeps `I` (D21), so the load reads the
bytes the store wrote. -/
theorem loadRegsBringsBackWhatStoreRegsStored :
    Obligations.LoadRegsBringsBackWhatStoreRegsStored := by
  intro x s v h
  obtain ⟨t, hstore, hmem, -, hkept⟩ := (storeRegsStoresTheFirstRegistersOrFaults.2 x s).1 h
  have hi : t.i = s.i := hkept .i (by simp)
  have haddr : ∀ k, ({ t with v := v } : State).dataAddr k = s.dataAddr k := fun k =>
    congrArg (·.toNat + k) hi
  obtain ⟨u, hload, hregs, -, hrest⟩ :=
    (loadRegsLoadsTheFirstRegistersOrFaults.2 x { t with v := v }).1 ((haddr _).trans_le h)
  refine ⟨t, u, hstore, hload, fun k hk => ?loaded, fun k hk => ?kept⟩
  case loaded => rw [hregs k hk, haddr]; exact hmem k hk
  case kept => exact hrest (.v k) (by simpa using hk)

/-- Settles O47: the 12-bit address fits a word, and the rest is the frame of a write of `I`. -/
theorem setIndexLoadsTheAddress : Obligations.SetIndexLoadsTheAddress :=
  ⟨setIndex_encodedAs, fun _ s hn =>
    ⟨_, rfl, toNat_addressOperand hn, rfl, s.setI_advance_frame _⟩⟩

/-- Settles O48: the glyph address fits a word, and it depends on no byte of memory. -/
theorem spriteAddrLoadsTheGlyphAddress : Obligations.SpriteAddrLoadsTheGlyphAddress :=
  ⟨spriteAddr_encodedAs, fun _ s hwf =>
    ⟨_, rfl, State.toNat_glyphAddr hwf _, rfl, s.setI_advance_frame _, fun _ _ => rfl⟩⟩

/-- Settles O49: the sum of words is the sum of numbers modulo 65536, and only `I` and `pc` are
written. -/
theorem addIndexWrapsAtSixteenBits : Obligations.AddIndexWrapsAtSixteenBits :=
  ⟨addIndex_encodedAs, fun _ s =>
    ⟨_, rfl, toNat_add_zext16 s.i _, rfl, s.setI_advance_frame _⟩⟩

end Sys2Proof.Machine

/-! PROOFS. The statements of 45_display.md: clear-screen (R191), draw (R192, R213), and the same draw
twice (R193). -/

namespace Sys2Proof.Machine

/-! ### The encodings (R94, R95) -/

/-- Every word of group 0 with last nibble 0 is clear-screen, whatever bits 11:4 hold (R94, R99, D23). -/
theorem clearScreen_encodedAs : EncodedAs 0xF00F 0x0000 (fun _ => .clearScreen) := by
  intro op h
  obtain ⟨hg, hn⟩ := (selects_F00F op 0x0 0x0 (by decide) (by decide)).1 h
  simp [decodeWord, decodeGroup0, hg, hn]

/-- Every word Dxyn is draw Vx,Vy,n (R95, D23). -/
theorem draw_encodedAs : EncodedAs 0xF000 0xD000 (fun op => .draw (opX op) (opY op) (opN op)) :=
  encodedAs_group (g := 0xD) (by decide) fun op hg => by simp [decodeWord, hg]

/-! ### Framebuffers pixel by pixel (R33, R191) -/

theorem pixel_blankScreen (y : Fin 32) (x : Fin 64) : pixel blankScreen y x = false := by
  simp only [pixel, blankScreen, Vector.getElem_replicate]

/-- Two framebuffers with the same pixels are one framebuffer. -/
theorem framebuffer_ext {fb fb' : Framebuffer} (h : ∀ y x, pixel fb y x = pixel fb' y x) :
    fb = fb' :=
  Vector.ext fun y hy => Vector.ext fun x hx => h ⟨y, hy⟩ ⟨x, hx⟩

/-! ### The collision flag (R23) -/

theorem flagByte_eq_zero_or_one (c : Bool) : flagByte c = 0 ∨ flagByte c = 1 := by
  cases c
  · exact .inl rfl
  · exact .inr rfl

theorem flagByte_eq_one_iff {c : Bool} : flagByte c = 1 ↔ c = true := by
  cases c <;> decide

/-! ### The sprite a draw works out before it writes (R192, D11) -/

/-- The framebuffer and the collision of `draw Vx,Vy,n` in `s`, from the operands as `s` holds them. -/
def State.blit (s : State) (x y : Reg) (n : Nat) : Blit :=
  drawSprite (s.getV x) (s.getV y) (s.readBytes (s.dataAddr 0) n) s.fb

/-- Each target pixel is XORed by the bit of its own row and column (D10), every other pixel keeps its
value, and the collision is a sprite bit 1 on a pixel that is on. -/
theorem State.blit_spec (s : State) (x y : Reg) {n : Nat} (hn : n < 16) :
    (∀ r col, r < n → col < 8 →
      pixel (s.blit x y n).fb (pixelRow (s.getV y) r) (pixelColumn (s.getV x) col) =
        (pixel s.fb (pixelRow (s.getV y) r) (pixelColumn (s.getV x) col) ^^
          spriteBit (s.readByte (s.dataAddr r)) col)) ∧
    (∀ py px,
      (∀ r col, r < n → col < 8 → py = pixelRow (s.getV y) r → px ≠ pixelColumn (s.getV x) col) →
      pixel (s.blit x y n).fb py px = pixel s.fb py px) ∧
    ((s.blit x y n).hit = true ↔ ∃ r col, r < n ∧ col < 8 ∧
      spriteBit (s.readByte (s.dataAddr r)) col = true ∧
      pixel s.fb (pixelRow (s.getV y) r) (pixelColumn (s.getV x) col) = true) := by
  have hlen := s.length_readBytes (s.dataAddr 0) n
  obtain ⟨htarget, hother, hhit⟩ := blitRows_spec (s.getV x) (s.getV y) 0
    (s.readBytes (s.dataAddr 0) n) ⟨s.fb, false⟩ (by omega)
  simp only [hlen, Nat.zero_add, State.getElem_readBytes] at htarget hother hhit
  refine ⟨htarget, hother, hhit.trans ⟨?_, ?_⟩⟩
  · rintro (h | ⟨r, col, hr, hc, hbit, hpix⟩)
    · exact absurd h Bool.false_ne_true
    · exact ⟨r, col, hr, hc, hbit, hpix⟩
  · rintro ⟨r, col, hr, hc, hbit, hpix⟩
    exact .inr ⟨r, col, hr, hc, hbit, hpix⟩

/-! ### The outcomes of draw (R192, R213) -/

/-- draw with its rows inside memory installs the sprite. -/
theorem execDraw_of_inRange {s : State} (x y : Reg) {n : Nat}
    (h : n = 0 ∨ s.i.toNat + n - 1 ≤ 0xFFF) :
    exec (.draw x y n) s = .next (s.finishDraw (s.blit x y n)).advance :=
  s.guardData_ok _ h

/-- draw with a row above 0xFFF raises AddressFault(data) (D2, D22). -/
theorem execDraw_of_outOfRange {s : State} (x y : Reg) {n : Nat} (h0 : 0 < n)
    (h : 0xFFF < s.i.toNat + n - 1) :
    exec (.draw x y n) s = .next (s.raise (.addressData (max s.i.toNat 0x1000) s.pc)) :=
  s.guardData_fault _ h0 h

theorem State.getV_finishDraw_flag (s : State) (b : Blit) :
    (s.finishDraw b).getV 15 = flagByte b.hit :=
  (s.getV_finishDraw b 15).trans (if_pos rfl)

theorem State.finishDraw_advance_frame (s : State) (b : Blit) :
    AgreeOutside (fun p => p = .fb ∨ p = .v 15 ∨ p = .history ∨ p = .pc) s
      (s.finishDraw b).advance :=
  ((((s.setFB_frame _).trans (State.setV_frame _ _ _)).trans (State.emit_frame _ _)).trans
    (State.setPc_frame _ _)).mono fun _ hp => or_assoc.1 (or_assoc.1 hp)

/-! ### The obligations -/

/-- Settles O55: inside memory the new framebuffer and the collision are those of the sprite's blit,
and a row above it raises the fault. -/
theorem drawXorsTheSpriteAndReportsCollision :
    Obligations.DrawXorsTheSpriteAndReportsCollision := by
  refine ⟨draw_encodedAs, fun x y n s hn => ⟨fun h => ?_, fun h0 h => ?_⟩⟩
  · have hvf : (s.finishDraw (s.blit x y n)).advance.getV 15 = flagByte (s.blit x y n).hit :=
      s.getV_finishDraw_flag _
    obtain ⟨htarget, hother, hhit⟩ := s.blit_spec x y hn
    refine ⟨_, execDraw_of_inRange x y h, htarget, hother, ?flag, ?collision, rfl, rfl,
      s.finishDraw_advance_frame _⟩
    case flag => rw [hvf]; exact flagByte_eq_zero_or_one _
    case collision => rw [hvf, flagByte_eq_one_iff]; exact hhit
  · exact ⟨_, execDraw_of_outOfRange x y h0 h, s.raise_faultsWith _⟩

/-- Settles O56, from what draw does: VF is no operand, so the second draw XORs the same bits at the same
pixels, and meets each target pixel as the first draw left it. -/
theorem doubleDrawRestoresTheFramebuffer : Obligations.DoubleDrawRestoresTheFramebuffer := by
  intro x y n s hn hx hy h
  obtain ⟨t, hst, htarget, hother, -, -, -, -, hkept⟩ :=
    (drawXorsTheSpriteAndReportsCollision.2 x y n s hn).1 h
  have hi : t.i = s.i := hkept .i (by simp)
  have hvx : t.getV x = s.getV x := hkept (.v x) (by simpa using hx)
  have hvy : t.getV y = s.getV y := hkept (.v y) (by simpa using hy)
  have hbyte : ∀ r, t.readByte (t.dataAddr r) = s.readByte (s.dataAddr r) := fun r => by
    rw [State.dataAddr, hi]
    exact hkept (.mem (s.dataAddr r)) (by simp)
  obtain ⟨u, htu, htarget', hother', -, hvf, -, -, -⟩ :=
    (drawXorsTheSpriteAndReportsCollision.2 x y n t hn).1 (by rwa [hi])
  simp only [hvx, hvy, hbyte] at htarget' hother' hvf
  refine ⟨t, u, hst, htu, framebuffer_ext fun py px => ?restored, hvf.trans ?collision⟩
  case restored =>
    by_cases hp : ∃ r col, r < n ∧ col < 8 ∧ py = pixelRow (s.getV y) r ∧
        px = pixelColumn (s.getV x) col
    · obtain ⟨r, col, hr, hc, rfl, rfl⟩ := hp
      refine (htarget' r col hr hc).trans ?_
      rw [htarget r col hr hc, Bool.xor_assoc, Bool.xor_self]
      exact Bool.xor_false _
    · have hne : ∀ r col, r < n → col < 8 → py = pixelRow (s.getV y) r →
          px ≠ pixelColumn (s.getV x) col :=
        fun r col hr hc hrow hcol => hp ⟨r, col, hr, hc, hrow, hcol⟩
      exact (hother' py px hne).trans (hother py px hne)
  case collision =>
    -- Under a sprite bit 1 the first draw turned the pixel over.
    refine exists_congr fun r => exists_congr fun col => and_congr_right fun hr =>
      and_congr_right fun hc => and_congr_right fun hbit => ?_
    rw [htarget r col hr hc, hbit, Bool.xor_true, Bool.not_eq_true']

/-- Settles O54: the installed framebuffer is the blank one, whatever stood there before. -/
theorem clearScreenBlanksAndPresents : Obligations.ClearScreenBlanksAndPresents :=
  ⟨clearScreen_encodedAs, fun s => ⟨_, rfl, pixel_blankScreen, rfl, rfl,
    (((s.setFB_frame _).trans (State.emit_frame _ _)).trans (State.setPc_frame _ _)).mono
      fun _ => or_assoc.1⟩⟩

end Sys2Proof.Machine

/-! PROOFS. The statements of 46_keypad_timer.md: the keypad skips (R200, R201, R215), the timer
instructions (R203 to R205), and the audio triggers after set-sound (R224). -/

namespace Sys2Proof.Machine

/-! ### The encodings (R97, R98) -/

/-- A row of group E needs the group decoder's answer on the words with its last nibble (R97). -/
theorem encodedAs_groupE {n : Nat} {i : Word → Instr} (hn : n < 16)
    (h : ∀ op, opN op = n → decodeGroupE op = .ok (i op)) :
    EncodedAs 0xF00F (BitVec.ofNat 16 (0xE * 0x1000 + n)) i := by
  intro op hop
  obtain ⟨hg, hl⟩ := (selects_F00F op 0xE n (by decide) hn).1 hop
  have hword : decodeWord op = decodeGroupE op := by simp [decodeWord, hg]
  exact hword.trans (h op hl)

/-- Every word of group E with last nibble E is skip-key-pressed Vx, whatever bits 7:4 hold
(R97, R99, D23). -/
theorem skipKeyPressed_encodedAs : EncodedAs 0xF00F 0xE00E (fun op => .skipKeyPressed (opX op)) :=
  encodedAs_groupE (n := 0xE) (by decide) fun op hn => by simp [decodeGroupE, hn]

/-- Every word of group E with last nibble 1 is skip-key-not-pressed Vx, whatever bits 7:4 hold
(R97, R99, D23). -/
theorem skipKeyNotPressed_encodedAs :
    EncodedAs 0xF00F 0xE001 (fun op => .skipKeyNotPressed (opX op)) :=
  encodedAs_groupE (n := 0x1) (by decide) fun op hn => by simp [decodeGroupE, hn]

/-- Every word Fx07 is get-delay Vx (R98, D23). -/
theorem getDelay_encodedAs : EncodedAs 0xF0FF 0xF007 (fun op => .getDelay (opX op)) :=
  encodedAs_groupF (low := 0x07) (by decide) fun op hl => by simp [decodeGroupF, hl]

/-- Every word Fx15 is set-delay Vx (R98, D23). -/
theorem setDelay_encodedAs : EncodedAs 0xF0FF 0xF015 (fun op => .setDelay (opX op)) :=
  encodedAs_groupF (low := 0x15) (by decide) fun op hl => by simp [decodeGroupF, hl]

/-- Every word Fx18 is set-sound Vx (R98, D23). -/
theorem setSound_encodedAs : EncodedAs 0xF0FF 0xF018 (fun op => .setSound (opX op)) :=
  encodedAs_groupF (low := 0x18) (by decide) fun op hl => by simp [decodeGroupF, hl]

/-! ### The sample of a keypad skip (R39, R200) -/

theorem State.keySample_of_cons {s : State} {k : Config.KeySample} {rest : List Config.KeySample}
    (h : s.inputs.keys = k :: rest) : s.keySample = k.keys := by
  simp only [State.keySample, h]

theorem State.afterKeys_inputs_of_cons {s : State} {k : Config.KeySample}
    {rest : List Config.KeySample} (h : s.inputs.keys = k :: rest) :
    s.afterKeys.inputs = { s.inputs with keys := rest } := by
  simp only [State.afterKeys, h, State.setKeys]

/-- An idle keypad with no sample listed shows no key pressed. -/
theorem State.keySample_of_idle {s : State} (hk : s.inputs.keys = [])
    (hp : s.inputs.keypad = .idle) : s.keySample = 0 := by
  simp only [State.keySample, hk, hp]

theorem State.afterKeys_of_idle {s : State} (hk : s.inputs.keys = [])
    (hp : s.inputs.keypad = .idle) : s.afterKeys = s := by
  simp only [State.afterKeys, hk, hp]

theorem State.afterKeys_frame (s : State) : AgreeOutside (· = .inputs) s s.afterKeys := by
  rw [State.afterKeys_eq]
  exact s.inputs_frame _

theorem State.afterKeys_skipIf_frame (s : State) (c : Bool) :
    AgreeOutside (fun p => p = .pc ∨ p = .inputs) s (s.afterKeys.skipIf c) :=
  (s.afterKeys_frame.trans (State.skipIf_frame _ c)).mono fun _ => Or.symm

theorem State.afterKeys_skipIf_pc (s : State) (c : Bool) :
    (s.afterKeys.skipIf c).pc = s.pc + (if c then 4 else 2) := by
  have hpc : s.afterKeys.pc = s.pc := s.afterKeys_frame .pc nofun
  rw [State.skipIf_pc, hpc, apply_ite (s.pc + ·)]

/-- The negated condition exchanges the two advances (R201). -/
theorem State.afterKeys_skipIf_not_pc (s : State) (c : Bool) :
    (s.afterKeys.skipIf (!c)).pc = s.pc + (if c then 2 else 4) := by
  rw [State.afterKeys_skipIf_pc]
  cases c <;> rfl

/-! ### The outcomes of the keypad skips (R200, R201, R215) -/

/-- An instruction whose only answers are the skip on a logical key and InvalidKey on any other value
gives the one that `V[x]` selects (D12). -/
theorem exec_keySkip {i : Instr} {x : Reg} {s : State} {c : Bool} (hi : ∀ y, i ≠ .waitKey y)
    (h : ∀ {t}, exec i s = .next t →
      ((s.getV x).toNat ≤ 0x0F ∧ t = s.afterKeys.skipIf c) ∨
      (0x0F < (s.getV x).toNat ∧ t = s.raise (.invalidKey (s.getV x) s.pc))) :
    ((s.getV x).toNat ≤ 0x0F → exec i s = .next (s.afterKeys.skipIf c)) ∧
    (0x0F < (s.getV x).toNat → exec i s = .next (s.raise (.invalidKey (s.getV x) s.pc))) := by
  obtain ⟨t, ht⟩ := exists_exec_next hi s
  rcases h ht with ⟨hle, rfl⟩ | ⟨hlt, rfl⟩
  · exact ⟨fun _ => ht, fun hlt => absurd hle (Nat.not_le.2 hlt)⟩
  · exact ⟨fun hle => absurd hle (Nat.not_le.2 hlt), fun _ => ht⟩

/-! ### The timers (R31, R32, R224) -/

theorem State.setDT_advance_frame (s : State) (b : Byte) :
    AgreeOutside (fun p => p = .dt ∨ p = .pc) s (s.setDT b).advance :=
  (s.setDT_frame b).trans (State.setPc_frame _ _)

theorem State.setST_advance_frame (s : State) (b : Byte) :
    AgreeOutside (fun p => p = .st ∨ p = .pc) s (s.setST b).advance :=
  (s.setST_frame b).trans (State.setPc_frame _ _)

@[simp] theorem State.ready_st (s : State) : s.ready.st = 0 := s.afterStopSample.drain_st

/-- The phases before the fetch emit one trigger per unit of `ST` (R224, D16). -/
@[simp] theorem State.ready_history (s : State) :
    s.ready.history = List.replicate s.st.toNat .audioTrigger ++ s.history :=
  s.afterStopSample.drain_history

/-! ### The obligations -/

/-- Settles O57: a logical key makes the skip follow the sampled bit, any other value is the fault
entry, and the sample is the listed one or the idle keypad's. -/
theorem keySkipsFollowTheSampledKey : Obligations.KeySkipsFollowTheSampledKey := by
  refine ⟨skipKeyPressed_encodedAs, skipKeyNotPressed_encodedAs, fun x s => ?_⟩
  obtain ⟨hskip, hfault⟩ :=
    exec_keySkip (i := .skipKeyPressed x) nofun execSkipKeyPressed_next
  obtain ⟨hskipNot, hfaultNot⟩ :=
    exec_keySkip (i := .skipKeyNotPressed x) nofun execSkipKeyNotPressed_next
  refine ⟨fun k rest hk => ?listed, fun hk hp => ?idle, fun hle => ⟨?pressed, ?notPressed⟩,
    fun hlt => ⟨?pressedFault, ?notPressedFault⟩⟩
  case listed => exact ⟨State.keySample_of_cons hk, State.afterKeys_inputs_of_cons hk⟩
  case idle =>
    exact ⟨State.keySample_of_idle hk hp, congrArg State.inputs (State.afterKeys_of_idle hk hp)⟩
  case pressed =>
    exact ⟨_, hskip hle, s.afterKeys_skipIf_pc _, rfl, s.afterKeys_skipIf_frame _⟩
  case notPressed =>
    exact ⟨_, hskipNot hle, s.afterKeys_skipIf_not_pc _, rfl, s.afterKeys_skipIf_frame _⟩
  case pressedFault => exact ⟨_, hfault hlt, s.raise_faultsWith _⟩
  case notPressedFault => exact ⟨_, hfaultNot hlt, s.raise_faultsWith _⟩

/-- Settles O28: set-sound leaves `V[x]` in `ST` and the history alone, and the next drain emits one
trigger per unit of `ST`. -/
theorem setSoundEmitsAsManyTriggersAsItsValue :
    Obligations.SetSoundEmitsAsManyTriggersAsItsValue :=
  fun s x => ⟨(s.setST (s.getV x)).advance, rfl, State.ready_history _, State.ready_st _⟩

/-- Settles O59: each instruction is one write and the advance, with the frame of that write. -/
theorem timerInstructionsMoveTheTimers : Obligations.TimerInstructionsMoveTheTimers := by
  refine ⟨getDelay_encodedAs, setDelay_encodedAs, setSound_encodedAs, fun x s => ⟨?_, ?_, ?_⟩⟩
  · exact ⟨_, rfl, s.getV_setV_self x _, rfl, s.setV_advance_frame x _⟩
  · exact ⟨_, rfl, rfl, rfl, s.setDT_advance_frame _⟩
  · exact ⟨_, rfl, rfl, rfl, s.setST_advance_frame _⟩

end Sys2Proof.Machine

/-! PROOFS. The statements of 60_exceptions.md: the cause and info of every fault a cycle can end with
(R210 to R216, R219), and return on an empty stack, which is no fault (R217). -/

namespace Sys2Proof.Machine

/-! ### The faults of the execute phase (R213 to R215) -/

/-- The instruction is one of the four that access memory at `I`, and `I + last` is the highest
address of its access (R213, D22). -/
def AccessesUpTo (i : Instr) (last : Nat) : Prop :=
  (∃ x y, i = .draw x y (last + 1)) ∨ (∃ x, i = .bcd x ∧ last = 2) ∨
    (∃ x : Reg, (i = .storeRegs x ∨ i = .loadRegs x) ∧ last = x.val)

/-- The causes of R210 that the execute phase of an instruction can raise, each with its premise and
its info. -/
inductive ExecFault (s : State) : Instr → Cause → Prop where
  /-- Cause 3: an access to an address above 0xFFF (R213). -/
  | addressData {i : Instr} {last : Nat} (hi : AccessesUpTo i last)
      (h : 0xFFF < s.i.toNat + last) : ExecFault s i (.addressData (max s.i.toNat 0x1000) s.pc)
  /-- Cause 4: a call on a full stack (R214). -/
  | stackOverflow (nnn : Nat) (h : s.sp.val = 16) : ExecFault s (.call nnn) (.stackOverflow s.pc)
  /-- Cause 5: a keypad skip on a value that names no logical key (R215). -/
  | invalidKey {i : Instr} {x : Reg} (hi : i = .skipKeyPressed x ∨ i = .skipKeyNotPressed x)
      (h : 0x0F < (s.getV x).toNat) : ExecFault s i (.invalidKey (s.getV x) s.pc)

/-- What the execute phase does to `RUN`: it raises a fault of its instruction, or leaves `RUN`
alone. -/
theorem exec_raise_or_run {i : Instr} {s t : State} (h : exec i s = .next t) :
    (∃ c, ExecFault s i c ∧ t = s.raise c) ∨ t.run = s.run := by
  cases i with
  | call nnn =>
    rcases execCall_next h with ⟨_, rfl⟩ | ⟨hsp, rfl⟩
    · exact .inr rfl
    · exact .inl ⟨_, .stackOverflow nnn hsp, rfl⟩
  | skipKeyPressed x =>
    rcases execSkipKeyPressed_next h with ⟨_, rfl⟩ | ⟨hv, rfl⟩
    · rw [State.afterKeys_eq]; exact .inr rfl
    · exact .inl ⟨_, .invalidKey (.inl rfl) hv, rfl⟩
  | skipKeyNotPressed x =>
    rcases execSkipKeyNotPressed_next h with ⟨_, rfl⟩ | ⟨hv, rfl⟩
    · rw [State.afterKeys_eq]; exact .inr rfl
    · exact .inl ⟨_, .invalidKey (.inr rfl) hv, rfl⟩
  | draw x y n =>
    rcases execDraw_next h with ⟨hn, ha, rfl⟩ | ⟨_, rfl⟩
    · obtain ⟨last, rfl⟩ := Nat.exists_eq_add_one_of_ne_zero hn.ne'
      exact .inl ⟨_, .addressData (.inl ⟨x, y, rfl⟩) ha, rfl⟩
    · exact .inr rfl
  | bcd x =>
    rcases execBcd_next h with ⟨ha, rfl⟩ | ⟨_, rfl⟩
    · exact .inl ⟨_, .addressData (.inr (.inl ⟨x, rfl, rfl⟩)) ha, rfl⟩
    · rw [State.storeBytes_eq]; exact .inr rfl
  | storeRegs x =>
    rcases execStoreRegs_next h with ⟨ha, rfl⟩ | ⟨_, rfl⟩
    · exact .inl ⟨_, .addressData (.inr (.inr ⟨x, .inl rfl, rfl⟩)) ha, rfl⟩
    · rw [State.storeBytes_eq]; exact .inr rfl
  | loadRegs x =>
    rcases execLoadRegs_next h with ⟨ha, rfl⟩ | ⟨_, rfl⟩
    · exact .inl ⟨_, .addressData (.inr (.inr ⟨x, .inr rfl, rfl⟩)) ha, rfl⟩
    · rw [State.loadBytes_eq]; exact .inr rfl
  | waitKey x => obtain ⟨_, _, rfl⟩ := execWaitKey_next h; exact .inr rfl
  | rand x kk => rw [execRand_next h]; exact .inr rfl
  -- Every other instruction has one outcome, an update of other fields.
  | _ => cases h; exact .inr rfl

/-- The premises and the info of a fault of the execute phase are the same before the stop sample and
the drain. -/
theorem ExecFault.of_ready {i : Instr} {s : State} {c : Cause} (h : ExecFault s.ready i c) :
    ExecFault s i c := by
  rw [State.ready_eq] at h
  cases h with
  | addressData hi ha => exact .addressData hi ha
  | stackOverflow nnn hsp => exact .stackOverflow nnn hsp
  | invalidKey hi hv => exact .invalidKey hi hv

/-! ### The faults of the fetch and the decode (R211, R212, R219) -/

/-- A fetch that faults starts above 0xFFE, and the address is the first one out of range (R212). -/
theorem State.fetchFault_eq_some {s : State} {a : Nat} (h : s.fetchFault = some a) :
    0xFFE < s.pc.toNat ∧ a = if s.pc.toNat ≤ 0xFFF then 0x1000 else s.pc.toNat := by
  unfold State.fetchFault at h
  split at h <;> cases h
  exact ⟨‹_›, rfl⟩

/-- The decoder of words has one error, which names the word (R211). -/
theorem decodeWord_error {op : Word} {e : DecodeError} (h : decodeWord op = .error e) :
    e = .unknownOpcode op := by
  simp only [decodeWord, decodeGroup0, decodeGroup8, decodeGroupE, decodeGroupF] at h
  repeat' split at h
  all_goals cases h
  all_goals rfl

/-- The phases from the fetch on that end a running machine faulted have raised that very fault: of
the fetch, of the decode, or of the decoded instruction (R216, R219). -/
theorem State.runInstruction_faulted {s t : State} {c : Cause} (hrun : s.run = .running)
    (h : s.runInstruction = .next t) (hfault : t.run = .faulted c) :
    t = s.raise c ∧
    ((0xFFE < s.pc.toNat ∧
        c = .addressFetch (if s.pc.toNat ≤ 0xFFF then 0x1000 else s.pc.toNat) s.pc) ∨
      (s.pc.toNat ≤ 0xFFE ∧ decodeWord s.fetchWord = .error (.unknownOpcode s.fetchWord) ∧
        c = .unknownOpcode s.fetchWord s.pc) ∨
      (s.pc.toNat ≤ 0xFFE ∧ ∃ i, decodeWord s.fetchWord = .ok i ∧ ExecFault s i c)) := by
  rcases s.runInstruction_cases with ⟨a, ha, he⟩ | ⟨hf, ⟨e, hd⟩, he⟩ | ⟨hf, i, hd, he⟩ <;>
    rw [he] at h
  · obtain ⟨hpc, rfl⟩ := State.fetchFault_eq_some ha
    cases h; cases hfault
    exact ⟨rfl, .inl ⟨hpc, rfl⟩⟩
  · cases decodeWord_error hd
    cases h; cases hfault
    exact ⟨rfl, .inr (.inl ⟨State.fetchFault_eq_none.1 hf, hd, rfl⟩)⟩
  · rcases exec_raise_or_run h with ⟨c', hc, rfl⟩ | hkeep
    · cases hfault
      exact ⟨rfl, .inr (.inr ⟨State.fetchFault_eq_none.1 hf, i, hd, hc⟩)⟩
    · rw [hkeep, hrun] at hfault
      cases hfault

/-- A cycle that ends a running machine faulted took a stop sample that read 0: the other sample
ends it stopped (R121). -/
theorem stop_ne_zero_of_step_faulted {s t : State} {c : Cause} (hrun : s.run = .running)
    (h : step s = .next t) (hfault : t.run = .faulted c) : s.inputs.stop ≠ some 0 := by
  intro hstop
  rw [step_of_stop hrun hstop] at h
  cases h; cases hfault

/-! ### Return on an empty stack (R217) -/

theorem State.poppedSp_of_empty {s : State} (h : s.sp.val = 0) : s.poppedSp = 0 :=
  Fin.ext (congrArg (· - 1) h)

/-- A pop of an empty stack changes nothing (R30, conflict C2). -/
theorem State.pop_of_empty {s : State} (h : s.sp.val = 0) : s.pop = s := by
  have hsp : s.poppedSp.castSucc = s.sp := by rw [State.poppedSp_of_empty h]; exact Fin.ext h.symm
  rw [State.pop, hsp]

/-- return on an empty stack is a jump to what slot 0 holds. -/
theorem execRet_of_empty {s : State} (h : s.sp.val = 0) :
    exec .ret s = .next (s.setPc (s.getSlot 0)) := by
  rw [exec, execRet, State.pop_of_empty h, State.poppedSp_of_empty h]

/-! ### The obligations -/

/-- Settles O21: the fault was raised on the ready state, which has the word, the operands and the
`pc` of the state before the cycle. -/
theorem everyFaultHasItsListedCause : Obligations.EveryFaultHasItsListedCause := by
  intro s t c hrun hstep hfault
  have hstop := stop_ne_zero_of_step_faulted hrun hstep hfault
  rw [step_of_no_stop hrun hstop] at hstep
  obtain ⟨rfl, hcause⟩ :=
    State.runInstruction_faulted ((State.ready_run s).trans hrun) hstep hfault
  rw [State.ready_pc, State.fetchWord_ready] at hcause
  refine ⟨hstop, s.ready.raise_faultsWith c, ?_⟩
  rcases hcause with hfetch | ⟨hpc, hdecode⟩ | ⟨hpc, i, hdec, hexec⟩
  · exact .inl hfetch
  · exact .inr (.inl ⟨⟨hrun, hstop, hpc⟩, hdecode⟩)
  · have hwill : s.willRun i := ⟨⟨hrun, hstop, hpc⟩, hdec⟩
    cases hexec.of_ready with
    | stackOverflow nnn hsp => exact .inr (.inr (.inl ⟨nnn, hwill, hsp, rfl⟩))
    | @invalidKey _ x hi hv =>
      refine .inr (.inr (.inr (.inl ⟨x, ?_, hv, rfl⟩)))
      rcases hi with rfl | rfl
      · exact .inl hwill
      · exact .inr hwill
    | addressData hi ha => exact .inr (.inr (.inr (.inr ⟨i, _, hwill, ha, hi, rfl⟩)))

/-- Settles O35: the pop changes nothing, so the return writes `pc` alone. -/
theorem returnOnAnEmptyStackIsNoFault : Obligations.ReturnOnAnEmptyStackIsNoFault :=
  fun s hrun hsp => ⟨_, execRet_of_empty hsp, rfl, hsp, hrun, s.setPc_frame _⟩

end Sys2Proof.Machine
